-- ==== Sys2Proof/Word.lean ====
section
/-! DEFINITION. The word types of the EEA engine: register words, bytes, window offsets and transaction words
(spec/00_scope.md R6, spec/20_memory.md R50, R53, spec/30_encoding.md R70). -/

namespace Sys2Proof

/-- A register word on the bus: 32 bits (00_scope.md R6). -/
abbrev Word := BitVec 32

/-- A byte of the register window (20_memory.md R54). -/
abbrev Byte := BitVec 8

/-- A byte offset in the 64-byte register window (20_memory.md R50, R51). -/
abbrev Offset := BitVec 6

/-- A 41-bit transaction word `T` (30_encoding.md R70). -/
abbrev TWord := BitVec 41

end Sys2Proof
end

