-- ==== Sys2Proof/Config.lean ====
section
/-! DEFINITION. What an implementation fixes (the parameters W and BASE, spec/00_scope.md R5) and the one free
value of the model (RES_INV after MODZERO, spec/93_implementation_defined.md). -/

namespace Sys2Proof

/-- The parameters of the block (00_scope.md R5). The spec has a model take them as an argument: here they
come with the machine (`State.params`), so that every statement about all states is about all legal parameters. -/
structure Params where
  /-- Operand and result width in bits, 4 to 32. -/
  W : Nat
  /-- Byte address of the register window in the host's address space, a multiple of 64. -/
  base : Nat
deriving DecidableEq, Repr

/-- The default parameters: `W = 32` is R5's default.
DESIGN CHOICE (log entry 2): BASE is OPEN in R5; this record takes 0, and no statement rests on it. -/
def Params.default : Params := { W := 32, base := 0 }

/-- `INT_MIN = -2^(W-1)` (00_scope.md R5). -/
def Params.intMin (p : Params) : Int := -(2 ^ (p.W - 1))

/-- `INT_MAX = 2^(W-1) - 1` (00_scope.md R5). -/
def Params.intMax (p : Params) : Int := 2 ^ (p.W - 1) - 1

/-- FREE VALUE (log entry 6): the word RES_INV holds after MODZERO, as a function of the Bezout coefficient and
the modulus the normalizer would have been given (43_modinv.md R143: the source divides by zero there;
93_implementation_defined.md: "RES_INV after MODZERO: `any value`"). It has no body: nothing can be proved of it. -/
opaque Config.modZeroInverse : Int → Int → Word

end Sys2Proof
end

