-- ==== Sys2Proof/Syntax.lean ====
section
/-! DEFINITION. The instructions of the EEA engine: one constructor per row of spec/opcode_table.json, that is,
per class of a legal host transaction (spec/30_encoding.md R79). -/

namespace Sys2Proof

/-- A legal host transaction. `clr` is bit 1 of the command word, `op` its bits 10:8 (30_encoding.md R71);
`d` is the write data of an operand write. A read has no operand: the data bits of a read are ignored. -/
inductive Instr where
  /-- Start GCD: CTRL write with START = 1, OP = 0 (41_gcd.md R120). -/
  | gcd (clr : Bool)
  /-- Start EGCD: CTRL write with START = 1, OP = 1 (42_egcd.md R130). -/
  | egcd (clr : Bool)
  /-- Start MODINV: CTRL write with START = 1, OP = 2 (43_modinv.md R140). -/
  | modinv (clr : Bool)
  /-- CTRL write with START = 1 and the illegal OP = 3 (40_engine.md R90). -/
  | illegalOp3 (clr : Bool)
  /-- CTRL write with START = 1 and the illegal OP = 4 (40_engine.md R90). -/
  | illegalOp4 (clr : Bool)
  /-- CTRL write with START = 1 and the illegal OP = 5 (40_engine.md R90). -/
  | illegalOp5 (clr : Bool)
  /-- CTRL write with START = 1 and the illegal OP = 6 (40_engine.md R90). -/
  | illegalOp6 (clr : Bool)
  /-- CTRL write with START = 1 and the illegal OP = 7 (40_engine.md R90). -/
  | illegalOp7 (clr : Bool)
  /-- CTRL write with START = 0 (30_encoding.md R76). -/
  | ctrl (op : BitVec 3) (clr : Bool)
  /-- Write of OPA (20_memory.md R59). -/
  | wrOpa (d : Word)
  /-- Write of OPB (20_memory.md R59). -/
  | wrOpb (d : Word)
  /-- Read of CTRL (20_memory.md R58). -/
  | rdCtrl
  /-- Read of STATUS (20_memory.md R58). -/
  | rdStatus
  /-- Read of OPA (20_memory.md R58). -/
  | rdOpa
  /-- Read of OPB (20_memory.md R58). -/
  | rdOpb
  /-- Read of RES_G (20_memory.md R58). -/
  | rdResG
  /-- Read of RES_X (20_memory.md R58). -/
  | rdResX
  /-- Read of RES_Y (20_memory.md R58). -/
  | rdResY
  /-- Read of RES_INV (20_memory.md R58). -/
  | rdResInv
  /-- Read of ITERS (20_memory.md R58). -/
  | rdIters
deriving DecidableEq, Repr

end Sys2Proof
end

