-- ==== Sys2Proof/WellFormed.lean ====
section
/-! DEFINITION. The checks on what the model is given: legal parameters (spec/00_scope.md R5) and transaction
words in the form software must write them (spec/30_encoding.md R70, R71, R74). An `Instr` needs no check of its own:
the types of its fields admit exactly what an encoding can hold (3 bits of OP, 1 of CLR, 32 of data). -/

namespace Sys2Proof

/-- The legal parameters (00_scope.md R5): `4 <= W <= 32`, and BASE a multiple of 64. -/
def Params.wf (p : Params) : Bool := 4 ≤ p.W && p.W ≤ 32 && p.base % 64 == 0

/-- The bits of a transaction word that no decoder reads, by the kind of the transaction: all data bits of a read
(opcode_table.json), bits 7:2 and 31:11 of a write to CTRL (30_encoding.md R71, R74), no bit of any other write. -/
def TWord.ignoredMask (t : TWord) : TWord :=
  if t.getLsbD 40 = false then 0x000FFFFFFFF#41
  else if t.extractLsb' 32 6 = 0x00#6 then 0x000FFFFF8FC#41
  else 0#41

/-- A transaction word as software must write it: 0 in every bit that is not read
(30_encoding.md R70: `wdata` is "0 for a read"; R74: "Software must write them as 0"). -/
def TWord.canonical (t : TWord) : Bool := t &&& t.ignoredMask == 0#41

end Sys2Proof
end

