-- ==== Sys2Proof/Decode.lean ====
section
/-! DEFINITION. The total decoder of transaction words (spec/30_encoding.md R79), which rejects by name (BUSERR, with
the cause of spec/60_exceptions.md R160), the encoder, and spec/opcode_table.json as a table of match and mask. -/

namespace Sys2Proof

/-- The nine registers of the window (20_memory.md R53). -/
inductive Reg where
  | ctrl | status | opa | opb | resG | resX | resY | resInv | iters
deriving DecidableEq, Repr

/-- The register map (20_memory.md R53). -/
def Reg.offset : Reg → Offset
  | .ctrl => 0x00#6
  | .status => 0x04#6
  | .opa => 0x08#6
  | .opb => 0x0C#6
  | .resG => 0x10#6
  | .resX => 0x14#6
  | .resY => 0x18#6
  | .resInv => 0x1C#6
  | .iters => 0x20#6

/-- The causes of a bus error (60_exceptions.md R160). The block records none of them: the label is the model's
(log entry 5), the first that applies in the order of R160's table. -/
inductive BusErrorCause where
  /-- The size is not 4 bytes. -/
  | size
  /-- The offset is not a multiple of 4. -/
  | misaligned
  /-- The offset is 0x24 or above. -/
  | unmapped
  /-- A write to STATUS, RES_G, RES_X, RES_Y, RES_INV or ITERS. -/
  | readOnly
deriving DecidableEq, Repr

/-- What the decoder returns (30_encoding.md R79): a class with a row in the opcode table, or BUSERR. -/
inductive Decoded where
  | instr (i : Instr)
  | busErr (cause : BusErrorCause)
deriving DecidableEq, Repr

/-- Legality of a transaction (20_memory.md R52). -/
def legal (we : Bool) (size : BitVec 2) (off : Offset) : Bool :=
  size == 2#2 && off.toNat % 4 == 0 && off.toNat ≤ 0x20 &&
    (!we || off == 0x00#6 || off == 0x08#6 || off == 0x0C#6)

/-- The cause of the bus error of a transaction that is not legal (60_exceptions.md R160). -/
def busErrorCause (size : BitVec 2) (off : Offset) : BusErrorCause :=
  if size ≠ 2#2 then .size
  else if off.toNat % 4 ≠ 0 then .misaligned
  else if 0x20 < off.toNat then .unmapped
  else .readOnly

/-- The register at an offset, if the window has one there (20_memory.md R53). -/
def regAt (off : Offset) : Option Reg :=
  if off = 0x00#6 then some .ctrl
  else if off = 0x04#6 then some .status
  else if off = 0x08#6 then some .opa
  else if off = 0x0C#6 then some .opb
  else if off = 0x10#6 then some .resG
  else if off = 0x14#6 then some .resX
  else if off = 0x18#6 then some .resY
  else if off = 0x1C#6 then some .resInv
  else if off = 0x20#6 then some .iters
  else none

/-- The class of a read of a register (30_encoding.md R79, `RD(off)`). -/
def readOf : Reg → Instr
  | .ctrl => .rdCtrl
  | .status => .rdStatus
  | .opa => .rdOpa
  | .opb => .rdOpb
  | .resG => .rdResG
  | .resX => .rdResX
  | .resY => .rdResY
  | .resInv => .rdResInv
  | .iters => .rdIters

/-- The class of a START with a given OP (30_encoding.md R72, R79). -/
def startOf (op : BitVec 3) (clr : Bool) : Instr :=
  if op = 0#3 then .gcd clr
  else if op = 1#3 then .egcd clr
  else if op = 2#3 then .modinv clr
  else if op = 3#3 then .illegalOp3 clr
  else if op = 4#3 then .illegalOp4 clr
  else if op = 5#3 then .illegalOp5 clr
  else if op = 6#3 then .illegalOp6 clr
  else .illegalOp7 clr

/-- The class of a command word (30_encoding.md R71, R79): START is bit 0, CLR bit 1, OP bits 10:8; the rest is
reserved and ignored (R74). -/
def decodeCommand (d : Word) : Instr :=
  let op := d.extractLsb' 8 3
  let clr := d.getLsbD 1
  if d.getLsbD 0 then startOf op clr else .ctrl op clr

/-- The class of a write (30_encoding.md R79). -/
def decodeWrite (off : Offset) (d : Word) : Option Instr :=
  if off = 0x08#6 then some (.wrOpa d)
  else if off = 0x0C#6 then some (.wrOpb d)
  else if off = 0x00#6 then some (decodeCommand d)
  else none

/-- The class of a transaction given by its fields (30_encoding.md R79). -/
def decodeFields (we : Bool) (size : BitVec 2) (off : Offset) (d : Word) : Decoded :=
  if legal we size off then
    match (if we then decodeWrite off d else (regAt off).map readOf) with
    | some i => .instr i
    | none => .busErr (busErrorCause size off)
  else .busErr (busErrorCause size off)

/-- The total decoder (30_encoding.md R79); the fields are those of R70. -/
def decode (t : TWord) : Decoded :=
  decodeFields (t.getLsbD 40) (t.extractLsb' 38 2) (t.extractLsb' 32 6) (t.extractLsb' 0 32)

/-- The transaction word of the given fields (30_encoding.md R70): we, size, off, wdata from the top down. -/
def packT (we : Bool) (size : BitVec 2) (off : Offset) (d : Word) : TWord :=
  BitVec.ofBool we ++ size ++ off ++ d

/-- The command word with the given OP, CLR and START, its reserved bits 0 (30_encoding.md R71, R74). -/
def commandWord (op : BitVec 3) (clr start : Bool) : Word :=
  0#21 ++ op ++ 0#6 ++ BitVec.ofBool clr ++ BitVec.ofBool start

/-- The transaction word of a word write. -/
def writeT (r : Reg) (d : Word) : TWord := packT true 2#2 r.offset d

/-- The transaction word of a word read: its data bits are 0 (30_encoding.md R70). -/
def readT (r : Reg) : TWord := packT false 2#2 r.offset 0#32

/-- The encoder: the canonical transaction word of each class (30_encoding.md R70-R72, 20_memory.md R53). -/
def encode : Instr → TWord
  | .gcd clr => writeT .ctrl (commandWord 0#3 clr true)
  | .egcd clr => writeT .ctrl (commandWord 1#3 clr true)
  | .modinv clr => writeT .ctrl (commandWord 2#3 clr true)
  | .illegalOp3 clr => writeT .ctrl (commandWord 3#3 clr true)
  | .illegalOp4 clr => writeT .ctrl (commandWord 4#3 clr true)
  | .illegalOp5 clr => writeT .ctrl (commandWord 5#3 clr true)
  | .illegalOp6 clr => writeT .ctrl (commandWord 6#3 clr true)
  | .illegalOp7 clr => writeT .ctrl (commandWord 7#3 clr true)
  | .ctrl op clr => writeT .ctrl (commandWord op clr false)
  | .wrOpa d => writeT .opa d
  | .wrOpb d => writeT .opb d
  | .rdCtrl => readT .ctrl
  | .rdStatus => readT .status
  | .rdOpa => readT .opa
  | .rdOpb => readT .opb
  | .rdResG => readT .resG
  | .rdResX => readT .resX
  | .rdResY => readT .resY
  | .rdResInv => readT .resInv
  | .rdIters => readT .iters

/-- A row of spec/opcode_table.json: its match and its mask. -/
structure TableRow where
  pattern : TWord
  mask : TWord
deriving DecidableEq, Repr

/-- Whether a transaction word matches a row. -/
def TableRow.matches (r : TableRow) (t : TWord) : Bool := t &&& r.mask == r.pattern

/-- The row of spec/opcode_table.json that each constructor stands for, its numbers copied from the table. -/
def Instr.row : Instr → TableRow
  | .gcd _ => { pattern := 0x18000000001#41, mask := 0x1FF00000701#41 }
  | .egcd _ => { pattern := 0x18000000101#41, mask := 0x1FF00000701#41 }
  | .modinv _ => { pattern := 0x18000000201#41, mask := 0x1FF00000701#41 }
  | .illegalOp3 _ => { pattern := 0x18000000301#41, mask := 0x1FF00000701#41 }
  | .illegalOp4 _ => { pattern := 0x18000000401#41, mask := 0x1FF00000701#41 }
  | .illegalOp5 _ => { pattern := 0x18000000501#41, mask := 0x1FF00000701#41 }
  | .illegalOp6 _ => { pattern := 0x18000000601#41, mask := 0x1FF00000701#41 }
  | .illegalOp7 _ => { pattern := 0x18000000701#41, mask := 0x1FF00000701#41 }
  | .ctrl _ _ => { pattern := 0x18000000000#41, mask := 0x1FF00000001#41 }
  | .wrOpa _ => { pattern := 0x18800000000#41, mask := 0x1FF00000000#41 }
  | .wrOpb _ => { pattern := 0x18C00000000#41, mask := 0x1FF00000000#41 }
  | .rdCtrl => { pattern := 0x08000000000#41, mask := 0x1FF00000000#41 }
  | .rdStatus => { pattern := 0x08400000000#41, mask := 0x1FF00000000#41 }
  | .rdOpa => { pattern := 0x08800000000#41, mask := 0x1FF00000000#41 }
  | .rdOpb => { pattern := 0x08C00000000#41, mask := 0x1FF00000000#41 }
  | .rdResG => { pattern := 0x09000000000#41, mask := 0x1FF00000000#41 }
  | .rdResX => { pattern := 0x09400000000#41, mask := 0x1FF00000000#41 }
  | .rdResY => { pattern := 0x09800000000#41, mask := 0x1FF00000000#41 }
  | .rdResInv => { pattern := 0x09C00000000#41, mask := 0x1FF00000000#41 }
  | .rdIters => { pattern := 0x0A000000000#41, mask := 0x1FF00000000#41 }

/-- The 20 rows of spec/opcode_table.json, in the table's order. -/
def opcodeTable : List TableRow :=
  [.gcd false, .egcd false, .modinv false, .illegalOp3 false, .illegalOp4 false, .illegalOp5 false,
    .illegalOp6 false, .illegalOp7 false, .ctrl 0#3 false, .wrOpa 0#32, .wrOpb 0#32, .rdCtrl, .rdStatus,
    .rdOpa, .rdOpb, .rdResG, .rdResX, .rdResY, .rdResInv, .rdIters].map Instr.row

/-- The instruction the decoder reads from the bits `w` of a row of spec/opcode_table.json. The spec stores no
instruction in memory: a transaction word is one 41-bit number numbered as the table numbers it (30_encoding.md R70),
so `w` is `T` itself; a number of more than 41 bits is none. -/
def decodeTableWord (_nbits w : Nat) : Option Instr :=
  if w < 2 ^ 41 then
    match decode (BitVec.ofNat 41 w) with
    | .instr i => some i
    | .busErr _ => none
  else none

end Sys2Proof
end

