-- ==== Sys2Proof/Machine/State.lean ====
section
/-! DEFINITION. The state of the EEA engine as plain data (spec/10_state.md), what the outside world does to it
(spec/00_scope.md R2, spec/70_reset_and_hazards.md R189), its faults and refusals, and its reset state (R180). -/

namespace Sys2Proof.Machine

/-- The engine's sequencing state (10_state.md R21). -/
inductive Fsm where
  /-- No command is running. -/
  | idle
  /-- A command is running: the engine has a step (40_engine.md R94). -/
  | run
deriving DecidableEq, Repr

/-- The legal commands, the values 0, 1, 2 of `wk.op` (10_state.md R30, 30_encoding.md R72). -/
inductive Command where
  | gcd
  | egcd
  | modinv
deriving DecidableEq, Repr

/-- How software must read RES_G: unsigned after GCD, signed after EGCD and MODINV (41_gcd.md R122). -/
inductive Reading where
  | unsigned
  | signed
deriving DecidableEq, Repr

/-- RES_G: the register's word, with the reading that the last completion gave it, so that a GCD result `2^(W-1)`
and an EGCD result `INT_MIN` stay distinct values (42_egcd.md R134). -/
structure GResult where
  word : Word
  reading : Reading
deriving DecidableEq, Repr

/-- The engine internal state but for `fsm` (10_state.md R30-R32). The W-bit and (W+2)-bit two's-complement registers
are held as integers: R31 allows it, "since no value reaches the W+2-bit limit". -/
structure Working where
  /-- The running command, 2 bits (R30). -/
  op : Command
  /-- The latched operand a, W bits, signed (R30). -/
  a : Int
  /-- The latched operand b, or the modulus m, W bits, signed (R30). -/
  b : Int
  /-- The current remainder, W+2 bits (R31). -/
  r0 : Int
  /-- The next remainder, W+2 bits (R31). -/
  r1 : Int
  /-- The coefficient of a in `r0`, W+2 bits (R31). -/
  s0 : Int
  /-- The coefficient of a in `r1`, W+2 bits (R31). -/
  s1 : Int
  /-- The coefficient of m in `r0`, W+2 bits (R31). -/
  t0 : Int
  /-- The coefficient of m in `r1`, W+2 bits (R31). -/
  t1 : Int
  /-- The iteration counter, 7 bits, unsigned (R32). -/
  k : BitVec 7
deriving DecidableEq, Repr

/-- One host access to memory-mapped registers: `MemRead` or `MemWrite` at a byte address (00_scope.md R9,
20_memory.md R50), with the size code of 20_memory.md R51 (0 byte, 1 half, 2 word, 3 reserved). -/
structure Access where
  we : Bool
  size : BitVec 2
  addr : Nat
  wdata : Word
deriving DecidableEq, Repr

/-- What the outside world does next (00_scope.md R2; 70_reset_and_hazards.md R180, R189). -/
inductive Event where
  /-- The host performs one bus transaction. -/
  | host (a : Access)
  /-- The host's `wait` loop: read STATUS, again while bit 0 of the value read is 1 (30_encoding.md R78). -/
  | wait
  /-- The engine is given a step; it takes one if and only if `fsm = RUN` (40_engine.md R94). -/
  | engine
  /-- `rst` is high at a clock edge; `req` says whether a transaction is presented in that cycle
  (70_reset_and_hazards.md R180). -/
  | reset (req : Bool)
deriving DecidableEq, Repr

/-- The block's answer to the last transaction presented to it: `rdata` and `err` (20_memory.md R51). -/
inductive Response where
  /-- No transaction has been answered since reset. -/
  | none
  /-- A legal read: `err = 0` and this read data. -/
  | readData (w : Word)
  /-- A legal write: `err = 0` and no read data. -/
  | writeDone
  /-- A bus error: `err = 1` and no read data (60_exceptions.md R160). -/
  | busError
  /-- A transaction in the reset cycle: ignored, `err = 0` and `rdata = 0` (70_reset_and_hazards.md R180). -/
  | resetIgnored
deriving DecidableEq, Repr

/-- The state of the machine. The fields from `op` to `wk` are the spec's (10_state.md R20: "Nothing else is
state"); `params`, `inputs` and `resp` are the model's own (log entries 1 to 4). -/
structure State where
  /-- The parameters of the block, which no step changes (00_scope.md R5; log entries 1, 2). -/
  params : Params
  /-- CTRL.OP (10_state.md R23). -/
  op : BitVec 3
  /-- STATUS.DONE (10_state.md R24). -/
  done : Bool
  /-- STATUS.NOINV, the no-inverse signal (10_state.md R25). -/
  noinv : Bool
  /-- STATUS.OVR, the overrun flag (10_state.md R26). -/
  ovr : Bool
  /-- STATUS.ERR, the error code (10_state.md R27). -/
  err : BitVec 4
  /-- OPA: the W stored bits, with no bit above them (10_state.md R28). -/
  opa : Word
  /-- OPB: the W stored bits, with no bit above them (10_state.md R28). -/
  opb : Word
  /-- RES_G (10_state.md R29). -/
  resG : GResult
  /-- RES_X (10_state.md R29). -/
  resX : Word
  /-- RES_Y (10_state.md R29). -/
  resY : Word
  /-- RES_INV (10_state.md R29). -/
  resInv : Word
  /-- ITERS (10_state.md R29). -/
  iters : Word
  /-- The sequencing state (10_state.md R21). STATUS.BUSY is 1 if and only if it is RUN (R24). -/
  fsm : Fsm
  /-- The working registers (10_state.md R30-R32). -/
  wk : Working
  /-- What the outside world does next, in order (log entry 3). -/
  inputs : List Event
  /-- The answer to the last transaction (log entry 4). -/
  resp : Response
deriving DecidableEq, Repr

/-- Why a step stops with a fault. -/
inductive Fault where
  /-- A bus error that the spec has a model fault: of any read ("a model must fault that read rather than give it any
  data word", 60_exceptions.md R160), or of any access with an unmapped offset or the reserved size
  (93_implementation_defined.md). Raised by `raiseBusError`; SAFE: the machine stops where the hardware goes on.
  `after` is the block as the error leaves it: nothing changed but the answer `err = 1` (log entry 5). -/
  | busError (off : Offset) (cause : BusErrorCause) (after : State)
  /-- A host access to a byte address outside the register window: no transaction of this block
  (20_memory.md R50). Raised by `present`; SAFE: the machine stops where the block sees nothing.
  `after` is the block, unchanged. -/
  | outsideWindow (addr : Nat) (after : State)
deriving DecidableEq, Repr

/-- Why something is refused. -/
inductive Refusal where
  /-- An instruction without a meaning. Raised by no arm of `exec`: every instruction has its meaning. SAFE. -/
  | notModelled (mnemonic : String)
  /-- An integer outside `[INT_MIN, INT_MAX]` was given to the source's functions (00_scope.md R4: a model "must refuse
  such an integer at the boundary"). Raised by `sourceCall` only, never by a step. SAFE. -/
  | operandOutOfRange (value : Int)
deriving DecidableEq, Repr

/-- RES_G at reset: the word 0 (10_state.md R29). DESIGN CHOICE (log entry 7): the reading is unsigned. -/
def GResult.reset : GResult := { word := 0#32, reading := .unsigned }

/-- The working registers at reset: all 0 (10_state.md R30-R32, 70_reset_and_hazards.md R180). -/
def Working.reset : Working :=
  { op := .gcd, a := 0, b := 0, r0 := 0, r1 := 0, s0 := 0, s1 := 0, t0 := 0, t1 := 0, k := 0#7 }

/-- The reset state of the block with the given parameters (70_reset_and_hazards.md R180), nothing presented to it. -/
def State.resetWith (p : Params) : State :=
  { params := p
    op := 0#3
    done := false
    noinv := false
    ovr := false
    err := 0#4
    opa := 0#32
    opb := 0#32
    resG := .reset
    resX := 0#32
    resY := 0#32
    resInv := 0#32
    iters := 0#32
    fsm := .idle
    wk := .reset
    inputs := []
    resp := .none }

/-- The machine right after reset (70_reset_and_hazards.md R180), with the default parameters (00_scope.md R5). -/
def State.reset : State := .resetWith .default

end Sys2Proof.Machine
end

