-- ==== Sys2Proof/Machine/Flags.lean ====
section
/-! DEFINITION. The writes of single state fields (`reg[NAME] <- v` and `wk.NAME <- v` of spec/00_scope.md R9), and the
flags of STATUS: its word, and the groups of flags the rules clear or set together (spec/10_state.md R24-R27, R34). -/

namespace Sys2Proof.Machine

/-- The rest of the outside world's script. -/
def State.withInputs (s : State) (l : List Event) : State := { s with inputs := l }

/-- The answer to a transaction. -/
def State.withResp (s : State) (r : Response) : State := { s with resp := r }

/-- `reg[CTRL.OP] <- v`. -/
def State.withOp (s : State) (v : BitVec 3) : State := { s with op := v }

/-- `reg[STATUS.OVR] <- v`. -/
def State.withOvr (s : State) (v : Bool) : State := { s with ovr := v }

/-- `reg[OPA] <- v`. -/
def State.withOpa (s : State) (v : Word) : State := { s with opa := v }

/-- `reg[OPB] <- v`. -/
def State.withOpb (s : State) (v : Word) : State := { s with opb := v }

/-- All the working registers at once. -/
def State.withWk (s : State) (v : Working) : State := { s with wk := v }

/-- The error codes that are produced (60_exceptions.md R161). -/
def errNone : BitVec 4 := 0#4

/-- ILLOP: an illegal command was rejected (60_exceptions.md R161). -/
def errIllop : BitVec 4 := 1#4

/-- MODZERO: an inverse modulo 0 was asked for (60_exceptions.md R161, 43_modinv.md R143). -/
def errModzero : BitVec 4 := 2#4

/-- STATUS.BUSY (10_state.md R24): not stored, 1 if and only if `fsm = RUN`. -/
def State.busy (s : State) : Bool := s.fsm == .run

/-- The word a read of STATUS returns (10_state.md R24): `zext_32({ERR[3:0], OVR, NOINV, DONE, BUSY})`. -/
def statusWord (s : State) : Word :=
  0#24 ++ s.err ++ BitVec.ofBool s.ovr ++ BitVec.ofBool s.noinv ++ BitVec.ofBool s.done ++ BitVec.ofBool s.busy

/-- CLR (40_engine.md R90): DONE, NOINV, OVR and ERR become 0. -/
def clearFlags (s : State) : State :=
  { s with done := false, noinv := false, ovr := false, err := errNone }

/-- CLR where bit 1 of the command word says so (40_engine.md R90). -/
def applyClr (clr : Bool) (s : State) : State := if clr then clearFlags s else s

/-- The flags that acceptance clears (40_engine.md R91): DONE, NOINV and ERR, and not OVR. -/
def clearForStart (s : State) : State := { s with done := false, noinv := false, err := errNone }

/-- The rejection of an illegal command (40_engine.md R90): DONE = 1, NOINV = 0, ERR = ILLOP. -/
def rejectIllegal (s : State) : State := { s with done := true, noinv := false, err := errIllop }

end Sys2Proof.Machine
end

