-- ==== Sys2Proof/Machine/Operands.lean ====
section
/-! DEFINITION. The number primitives of spec/00_scope.md R6-R7: how operands are read from stored bits and how results
are placed in register words (spec/30_encoding.md R73). -/

namespace Sys2Proof.Machine

/-- `v[W-1:0]`: the low W bits of a word, the others 0 (20_memory.md R59). -/
def lowBits (W : Nat) (v : Word) : Word := BitVec.ofNat 32 (v.toNat % 2 ^ W)

/-- `sint_W(v)`: the signed integer denoted by the low W bits of a word (00_scope.md R6). -/
def sint (W : Nat) (v : Word) : Int := Int.bmod v.toNat (2 ^ W)

/-- `sext_32` of the low W bits of a word (00_scope.md R6). -/
def sext32 (W : Nat) (v : Word) : Word := BitVec.ofInt 32 (sint W v)

/-- `bits_W(i)`: the W-bit two's-complement pattern of an integer (00_scope.md R6). -/
def bits (W : Nat) (i : Int) : Word := BitVec.ofNat 32 (i % 2 ^ W).toNat

/-- `sext_32(bits_W(i))`: how a signed result is placed in a register word (30_encoding.md R73). -/
def signedResult (W : Nat) (i : Int) : Word := sext32 W (bits W i)

/-- `u32(i)`: how a non-negative result is placed in a register word (00_scope.md R6, 30_encoding.md R73). -/
def u32 (n : Nat) : Word := BitVec.ofNat 32 n

/-- `fdiv(a, b) = floor(a / b)` (00_scope.md R7). No rule uses it with `b = 0`. -/
def fdiv (a b : Int) : Int := Int.fdiv a b

/-- `fmod(a, b) = a - b * fdiv(a, b)` (00_scope.md R7). No rule uses it with `b = 0`. -/
def fmod (a b : Int) : Int := a - b * fdiv a b

end Sys2Proof.Machine
end

