-- ==== Sys2Proof/Machine/Ops.lean ====
section
/-! DEFINITION. The named operations over the registers: reading the window (spec/20_memory.md R58), answering a
transaction, the bus error (spec/60_exceptions.md R160; the block has no other exception and no trap, R164), the CTRL write
(spec/40_engine.md R90) with acceptance (R91), and reset (spec/70_reset_and_hazards.md R180). -/

namespace Sys2Proof.Machine

/-- The word a legal read of a register returns (20_memory.md R58). -/
def readReg (s : State) : Reg → Word
  | .ctrl => 0#21 ++ s.op ++ 0#8
  | .status => statusWord s
  | .opa => sext32 s.params.W s.opa
  | .opb => sext32 s.params.W s.opb
  | .resG => s.resG.word
  | .resX => s.resX
  | .resY => s.resY
  | .resInv => s.resInv
  | .iters => s.iters

/-- A legal read: it answers with the register's word and changes nothing else (20_memory.md R57, R58). -/
def answerRead (r : Reg) (s : State) : Host.Outcome State Fault Refusal :=
  .next (s.withResp (.readData (readReg s r)))

/-- A legal write: it is answered with `err = 0`, after its effect (20_memory.md R51, R59). -/
def answerWrite (s : State) : Host.Outcome State Fault Refusal :=
  .next (s.withResp .writeDone)

/-- The signed value RES_G stands for under its reading (41_gcd.md R122). -/
def GResult.value (g : GResult) : Int :=
  match g.reading with
  | .unsigned => g.word.toNat
  | .signed => g.word.toInt

/-- A byte of the register window (20_memory.md R54): bit `8i+j` of a register is bit `j` of the byte at its
offset + `i`. An unmapped offset has no byte. No transaction reads a single byte. -/
def windowByte (s : State) (off : Offset) : Option Byte :=
  (regAt (off &&& 0x3C#6)).map fun r => (readReg s r).extractLsb' (8 * (off.toNat % 4)) 8

/-- Whether the spec has a model fault a bus error: that of a read (60_exceptions.md R160), of an unmapped offset, or of
the reserved size (93_implementation_defined.md). Any other is a write whose whole effect R160 gives: `err = 1`.
DEDUCED (log entry 5). -/
def busErrorFaults (we : Bool) (size : BitVec 2) (off : Offset) : Bool :=
  !we || size == 3#2 || decide (0x23 < off.toNat)

/-- `raise BusError(off)` (00_scope.md R9, 60_exceptions.md R160): the transaction is answered with `err = 1`; no
register, no flag and no working register changes, and a running command is not stopped. -/
def raiseBusError (we : Bool) (size : BitVec 2) (off : Offset) (cause : BusErrorCause) (s : State) :
    Host.Outcome State Fault Refusal :=
  let after := s.withResp .busError
  if busErrorFaults we size off then .fault (.busError off cause after) else .next after

/-- The working registers at the acceptance of a command with operands a and b (40_engine.md R91). -/
def startWorking (c : Command) (a b : Int) : Working :=
  { op := c, a := a, b := b, r0 := a, r1 := b, s0 := 1, s1 := 0, t0 := 0, t1 := 1, k := 0#7 }

/-- `Accept(op)` (40_engine.md R91). STATUS.OVR and the results are kept. -/
def accept (c : Command) (s : State) : State :=
  { clearForStart s with
    wk := startWorking c (sint s.params.W s.opa) (sint s.params.W s.opb)
    fsm := .run }

/-- What the OP of a START selects (30_encoding.md R72): a command, or none where the OP is illegal (3 to 7). -/
def commandOf (op : BitVec 3) : Option Command :=
  if op = 0#3 then some .gcd
  else if op = 1#3 then some .egcd
  else if op = 2#3 then some .modinv
  else none

/-- START (40_engine.md R90): BUSY is tested before the legality of OP (60_exceptions.md R166). -/
def start (op : BitVec 3) (s : State) : State :=
  match s.fsm with
  | .run => s.withOvr true
  | .idle =>
    match commandOf op with
    | some c => accept c s
    | none => rejectIllegal s

/-- `CtrlWrite(d)` (40_engine.md R90), `d` given by its fields: OP is stored, then CLR, then START. -/
def ctrlWrite (op : BitVec 3) (clr startBit : Bool) (s : State) : State :=
  let s' := applyClr clr (s.withOp op)
  if startBit then start op s' else s'

/-- Reset (70_reset_and_hazards.md R180): the whole state of the block becomes the reset state. A transaction presented in
the reset cycle is ignored, and answered with `err = 0` and `rdata = 0`. -/
def applyReset (req : Bool) (s : State) : State :=
  { State.resetWith s.params with
    inputs := s.inputs
    resp := if req then .resetIgnored else .none }

end Sys2Proof.Machine
end

