-- ==== Sys2Proof/Machine/Commands.lean ====
section
/-! DEFINITION. The meanings of the CTRL writes (spec/40_engine.md R90): the three commands (spec/41_gcd.md R120,
spec/42_egcd.md R130, spec/43_modinv.md R140), the illegal OPs (spec/30_encoding.md R75), and the control form (R76). The
rest of a command's effect is the engine's (Machine/Engine.lean). -/

namespace Sys2Proof.Machine

/-- GCD: START with OP = 0 (41_gcd.md R120). -/
def execGcd (clr : Bool) (s : State) : Host.Outcome State Fault Refusal :=
  answerWrite (ctrlWrite 0#3 clr true s)

/-- EGCD: START with OP = 1 (42_egcd.md R130). -/
def execEgcd (clr : Bool) (s : State) : Host.Outcome State Fault Refusal :=
  answerWrite (ctrlWrite 1#3 clr true s)

/-- MODINV: START with OP = 2 (43_modinv.md R140). -/
def execModinv (clr : Bool) (s : State) : Host.Outcome State Fault Refusal :=
  answerWrite (ctrlWrite 2#3 clr true s)

/-- START with the illegal OP = 3 (40_engine.md R90). -/
def execIllegalOp3 (clr : Bool) (s : State) : Host.Outcome State Fault Refusal :=
  answerWrite (ctrlWrite 3#3 clr true s)

/-- START with the illegal OP = 4 (40_engine.md R90). -/
def execIllegalOp4 (clr : Bool) (s : State) : Host.Outcome State Fault Refusal :=
  answerWrite (ctrlWrite 4#3 clr true s)

/-- START with the illegal OP = 5 (40_engine.md R90). -/
def execIllegalOp5 (clr : Bool) (s : State) : Host.Outcome State Fault Refusal :=
  answerWrite (ctrlWrite 5#3 clr true s)

/-- START with the illegal OP = 6 (40_engine.md R90). -/
def execIllegalOp6 (clr : Bool) (s : State) : Host.Outcome State Fault Refusal :=
  answerWrite (ctrlWrite 6#3 clr true s)

/-- START with the illegal OP = 7 (40_engine.md R90). -/
def execIllegalOp7 (clr : Bool) (s : State) : Host.Outcome State Fault Refusal :=
  answerWrite (ctrlWrite 7#3 clr true s)

/-- The control form: START = 0 (30_encoding.md R76). -/
def execCtrl (op : BitVec 3) (clr : Bool) (s : State) : Host.Outcome State Fault Refusal :=
  answerWrite (ctrlWrite op clr false s)

end Sys2Proof.Machine
end

