-- ==== Sys2Proof/Machine/Reads.lean ====
section
/-! DEFINITION. The meanings of the nine register reads (spec/20_memory.md R58). -/

namespace Sys2Proof.Machine

/-- RD_CTRL: `OP << 8` (10_state.md R23). -/
def execRdCtrl (s : State) : Host.Outcome State Fault Refusal := answerRead .ctrl s

/-- RD_STATUS: the status word (10_state.md R24). -/
def execRdStatus (s : State) : Host.Outcome State Fault Refusal := answerRead .status s

/-- RD_OPA: the stored W bits, sign-extended (10_state.md R28). -/
def execRdOpa (s : State) : Host.Outcome State Fault Refusal := answerRead .opa s

/-- RD_OPB: the stored W bits, sign-extended (10_state.md R28). -/
def execRdOpb (s : State) : Host.Outcome State Fault Refusal := answerRead .opb s

/-- RD_RES_G (10_state.md R29). -/
def execRdResG (s : State) : Host.Outcome State Fault Refusal := answerRead .resG s

/-- RD_RES_X (10_state.md R29). -/
def execRdResX (s : State) : Host.Outcome State Fault Refusal := answerRead .resX s

/-- RD_RES_Y (10_state.md R29). -/
def execRdResY (s : State) : Host.Outcome State Fault Refusal := answerRead .resY s

/-- RD_RES_INV (10_state.md R29). -/
def execRdResInv (s : State) : Host.Outcome State Fault Refusal := answerRead .resInv s

/-- RD_ITERS (10_state.md R29). -/
def execRdIters (s : State) : Host.Outcome State Fault Refusal := answerRead .iters s

end Sys2Proof.Machine
end

