-- ==== Sys2Proof/Machine/Writes.lean ====
section
/-! DEFINITION. The meanings of the operand writes (spec/20_memory.md R59): bits 31:W are dropped, and a running command
is not affected (spec/40_engine.md R92). -/

namespace Sys2Proof.Machine

/-- WR_OPA (20_memory.md R59). -/
def execWrOpa (d : Word) (s : State) : Host.Outcome State Fault Refusal :=
  answerWrite (s.withOpa (lowBits s.params.W d))

/-- WR_OPB (20_memory.md R59). -/
def execWrOpb (d : Word) (s : State) : Host.Outcome State Fault Refusal :=
  answerWrite (s.withOpb (lowBits s.params.W d))

end Sys2Proof.Machine
end

