-- ==== Sys2Proof/Machine/Dispatch.lean ====
section
/-! DEFINITION. The dispatch: one arm per constructor of Instr, each one call of that instruction's meaning. -/

namespace Sys2Proof.Machine

def exec (i : Instr) (s : State) : Host.Outcome State Fault Refusal :=
  match i with
  | .gcd clr => Sys2Proof.Machine.execGcd clr s
  | .egcd clr => Sys2Proof.Machine.execEgcd clr s
  | .modinv clr => Sys2Proof.Machine.execModinv clr s
  | .illegalOp3 clr => Sys2Proof.Machine.execIllegalOp3 clr s
  | .illegalOp4 clr => Sys2Proof.Machine.execIllegalOp4 clr s
  | .illegalOp5 clr => Sys2Proof.Machine.execIllegalOp5 clr s
  | .illegalOp6 clr => Sys2Proof.Machine.execIllegalOp6 clr s
  | .illegalOp7 clr => Sys2Proof.Machine.execIllegalOp7 clr s
  | .ctrl op clr => Sys2Proof.Machine.execCtrl op clr s
  | .wrOpa d => Sys2Proof.Machine.execWrOpa d s
  | .wrOpb d => Sys2Proof.Machine.execWrOpb d s
  | .rdCtrl => Sys2Proof.Machine.execRdCtrl s
  | .rdStatus => Sys2Proof.Machine.execRdStatus s
  | .rdOpa => Sys2Proof.Machine.execRdOpa s
  | .rdOpb => Sys2Proof.Machine.execRdOpb s
  | .rdResG => Sys2Proof.Machine.execRdResG s
  | .rdResX => Sys2Proof.Machine.execRdResX s
  | .rdResY => Sys2Proof.Machine.execRdResY s
  | .rdResInv => Sys2Proof.Machine.execRdResInv s
  | .rdIters => Sys2Proof.Machine.execRdIters s

end Sys2Proof.Machine
end

