-- ==== Sys2Proof/Machine/Engine.lean ====
section
/-! DEFINITION. The engine agent: the iteration step (spec/40_engine.md R95), the completion step (R96) with the completion
of each command (spec/41_gcd.md R120, spec/42_egcd.md R130, spec/43_modinv.md R140), and the normalizer (R142). -/

namespace Sys2Proof.Machine

/-- `Iterate()` (40_engine.md R95), used only where `r1 != 0`: every right-hand side is evaluated first. -/
def iterate (w : Working) : Working :=
  let q := fdiv w.r0 w.r1
  { w with
    r0 := w.r1
    r1 := w.r0 - q * w.r1
    s0 := w.s1
    s1 := w.s0 - q * w.s1
    t0 := w.t1
    t1 := w.t0 - q * w.t1
    k := w.k + 1#7 }

/-- `Normalize(x, m)` (43_modinv.md R142), used only where `m >= 1`. -/
def normalize (x m : Int) : Int := fmod (if x < 0 then x + m else x) m

/-- `GcdComplete()` (41_gcd.md R120): RES_G is unsigned (R122), the other results are 0. -/
def gcdComplete (s : State) : State :=
  { s with
    resG := { word := u32 s.wk.r0.natAbs, reading := .unsigned }
    resX := 0#32
    resY := 0#32
    resInv := 0#32 }

/-- The triple `(g, x, y)` placed as signed results (42_egcd.md R130, 43_modinv.md R140). -/
def storeTriple (s : State) : State :=
  { s with
    resG := { word := signedResult s.params.W s.wk.r0, reading := .signed }
    resX := signedResult s.params.W s.wk.s0
    resY := signedResult s.params.W s.wk.t0 }

/-- `EgcdComplete()` (42_egcd.md R130). -/
def egcdComplete (s : State) : State := { storeTriple s with resInv := 0#32 }

/-- The part of `ModinvComplete()` (43_modinv.md R140) that follows the triple: NOINV is tested before MODZERO
(60_exceptions.md R166). RES_INV after MODZERO is a FREE VALUE (log entry 6): the spec's pseudocode writes 0
there and has a model treat it as any value (43_modinv.md R143, 93_implementation_defined.md). -/
def storeInverse (s : State) : State :=
  if s.wk.r0 ≠ 1 then { s with noinv := true, resInv := 0#32 }
  else if s.wk.b = 0 then { s with err := errModzero, resInv := Config.modZeroInverse s.wk.s0 s.wk.b }
  else { s with resInv := u32 (normalize s.wk.s0 s.wk.b).toNat }

/-- `ModinvComplete()` (43_modinv.md R140). -/
def modinvComplete (s : State) : State := storeInverse (storeTriple s)

/-- The completion of the running command (40_engine.md R96). -/
def commandComplete (s : State) : State :=
  match s.wk.op with
  | .gcd => gcdComplete s
  | .egcd => egcdComplete s
  | .modinv => modinvComplete s

/-- `Complete()` (40_engine.md R96): the results, then ITERS, DONE and IDLE. The working registers keep their values. -/
def complete (s : State) : State :=
  { commandComplete s with iters := u32 s.wk.k.toNat, done := true, fsm := .idle }

/-- The engine's step (40_engine.md R94): none in IDLE; in RUN an iteration where `r1 != 0`, else the completion. -/
def engineStep (s : State) : State :=
  match s.fsm with
  | .idle => s
  | .run => if s.wk.r1 ≠ 0 then s.withWk (iterate s.wk) else complete s

end Sys2Proof.Machine
end

