-- ==== Sys2Proof/Machine/Fetch.lean ====
section
/-! DEFINITION. What the next step is: taking the next event of the outside world, and presenting a host access to the
block as a transaction (spec/20_memory.md R50, R51, spec/30_encoding.md R70, R79). -/

namespace Sys2Proof.Machine

/-- What a step does: run a decoded transaction from a state, or something already settled. -/
inductive Fetched where
  /-- A legal transaction, and the state it acts on. -/
  | instr (i : Instr) (s : State)
  /-- A step that runs no instruction: the engine's, a reset, a bus error, an access outside the window. -/
  | settled (o : Host.Outcome State Fault Refusal)

/-- The offset in the window of a byte address of the host, if it is in the window (20_memory.md R50). -/
def windowOffset (p : Params) (addr : Nat) : Option Offset :=
  if p.base ≤ addr ∧ addr < p.base + 64 then some (BitVec.ofNat 6 (addr - p.base)) else none

/-- The transaction word of an access at an offset (30_encoding.md R70). -/
def Access.transaction (a : Access) (off : Offset) : TWord := packT a.we a.size off a.wdata

/-- The access whose transaction word is `t`, for a window at `base` (30_encoding.md R70, 20_memory.md R50). -/
def Access.ofTransaction (base : Nat) (t : TWord) : Access :=
  { we := t.getLsbD 40
    size := t.extractLsb' 38 2
    addr := base + (t.extractLsb' 32 6).toNat
    wdata := t.extractLsb' 0 32 }

/-- A host access is presented to the block (20_memory.md R51): it is decoded (30_encoding.md R79), and BUSERR is answered
with a bus error (60_exceptions.md R160). An access outside the window is no transaction of the block. -/
def present (a : Access) (s : State) : Fetched :=
  match windowOffset s.params a.addr with
  | none => .settled (.fault (.outsideWindow a.addr s))
  | some off =>
    match decode (a.transaction off) with
    | .instr i => .instr i s
    | .busErr cause => .settled (raiseBusError a.we a.size off cause s)

/-- What remains of the script after a poll of the `wait` loop (30_encoding.md R78): where bit 0 of the STATUS value read
is 1 the host polls again, and the engine, which is weakly fair (70_reset_and_hazards.md R190), gets a step before. -/
def afterPoll (s : State) (rest : List Event) : List Event :=
  if (statusWord s).getLsbD 0 then .engine :: .wait :: rest else rest

/-- The next event, taken from the script. An empty script gives every step to the engine (70_reset_and_hazards.md
R190), which has none in IDLE (40_engine.md R94). -/
def fetch (s : State) : Fetched :=
  match s.inputs with
  | [] => .settled (.next (engineStep s))
  | .engine :: rest => .settled (.next (engineStep (s.withInputs rest)))
  | .reset req :: rest => .settled (.next (applyReset req (s.withInputs rest)))
  | .host a :: rest => present a (s.withInputs rest)
  | .wait :: rest => .instr .rdStatus (s.withInputs (afterPoll s rest))

/-- The state with a transaction word presented by the host as the next event. -/
def presentWord (s : State) (t : TWord) : State :=
  s.withInputs (.host (.ofTransaction s.params.base t) :: s.inputs)

end Sys2Proof.Machine
end

