-- ==== Sys2Proof/Machine/Step.lean ====
section
/-! DEFINITION. The step of the machine: one host transaction, one engine step or one reset
(spec/00_scope.md R2, spec/70_reset_and_hazards.md R180, R189). -/

namespace Sys2Proof.Machine

/-- One step: what `fetch` takes from the script of the outside world, run (00_scope.md R2). -/
def step (s : State) : Host.Outcome State Fault Refusal :=
  match fetch s with
  | .instr i s' => exec i s'
  | .settled o => o

/-- The state with the transaction of the bits `w` presented by the host as the very next event (log entry 3). -/
def State.withFetchWord (s : State) (_nbits w : Nat) : State := presentWord s (BitVec.ofNat 41 w)

end Sys2Proof.Machine
end

