-- ==== Sys2Proof/Machine/HostAsm.lean ====
section
/-! DEFINITION. The host's side: the assembly and pseudo-instructions of spec/30_encoding.md R78 as events of the model,
and calls of the source's functions, which refuse an integer that is no operand (spec/00_scope.md R4). -/

namespace Sys2Proof.Machine

/-- A statement of the host assembly (30_encoding.md R78). A value is an integer, written as `u32(v mod 2^32)`. -/
inductive Stmt where
  /-- `rd REG`. -/
  | rd (r : Reg)
  /-- `wr REG, v`. -/
  | wr (r : Reg) (v : Int)
  /-- `rd @off`, with a size: 0 for `rd.b`, 1 for `rd.h`, 2 with no suffix. -/
  | rdAt (size : BitVec 2) (off : Offset)
  /-- `wr @off, v`, with a size. -/
  | wrAt (size : BitVec 2) (off : Offset) (v : Int)
  | gcd (a b : Int)
  | egcd (a m : Int)
  | modinv (a m : Int)
  | start (op : BitVec 3)
  | clr
  | wait
deriving DecidableEq, Repr

/-- A read of `size` at an offset, in a window at `base` (30_encoding.md R78). -/
def readEvent (base : Nat) (size : BitVec 2) (off : Offset) : Event :=
  .host { we := false, size := size, addr := base + off.toNat, wdata := 0#32 }

/-- A write of `size` at an offset, in a window at `base` (30_encoding.md R78). -/
def writeEvent (base : Nat) (size : BitVec 2) (off : Offset) (d : Word) : Event :=
  .host { we := true, size := size, addr := base + off.toNat, wdata := d }

/-- `wr REG, v` (30_encoding.md R78). -/
def writeReg (base : Nat) (r : Reg) (v : Int) : Event := writeEvent base 2#2 r.offset (BitVec.ofInt 32 v)

/-- The expansion of a statement (30_encoding.md R78). -/
def Stmt.expand (base : Nat) : Stmt → List Event
  | .rd r => [readEvent base 2#2 r.offset]
  | .wr r v => [writeReg base r v]
  | .rdAt size off => [readEvent base size off]
  | .wrAt size off v => [writeEvent base size off (BitVec.ofInt 32 v)]
  | .gcd a b => [writeReg base .opa a, writeReg base .opb b, writeReg base .ctrl 0x001]
  | .egcd a m => [writeReg base .opa a, writeReg base .opb m, writeReg base .ctrl 0x101]
  | .modinv a m => [writeReg base .opa a, writeReg base .opb m, writeReg base .ctrl 0x201]
  | .start op => [writeReg base .ctrl (op.toNat * 256 + 1)]
  | .clr => [writeReg base .ctrl 0x002]
  | .wait => [.wait]

/-- A host program: its statements in order. -/
def assemble (base : Nat) (prog : List Stmt) : List Event := prog.flatMap (Stmt.expand base)

/-- Whether an integer is an operand of the block: in `[INT_MIN, INT_MAX]` (00_scope.md R4, R5). -/
def Params.isOperand (p : Params) (i : Int) : Bool := p.intMin ≤ i && i ≤ p.intMax

/-- The pseudo-instruction of a command (30_encoding.md R78). -/
def Command.stmt : Command → Int → Int → Stmt
  | .gcd => .gcd
  | .egcd => .egcd
  | .modinv => .modinv

/-- A call of one of the source's functions through the block: the host writes the operands, starts the command and
waits. An integer that is no operand is refused at the boundary (00_scope.md R4, 93_implementation_defined.md). -/
def sourceCall (c : Command) (a b : Int) (s : State) : Host.Outcome State Fault Refusal :=
  if Params.isOperand s.params a = false then .refused (.operandOutOfRange a)
  else if Params.isOperand s.params b = false then .refused (.operandOutOfRange b)
  else .next (s.withInputs (assemble s.params.base [c.stmt a b, .wait] ++ s.inputs))

/-- What the source's `modInverse` answers, read off the registers after MODINV: "absent" where NOINV = 1, and no value
after MODZERO (43_modinv.md R141, R143; 93_implementation_defined.md: "absent", not 0). -/
def inverseRead (s : State) : Option Nat :=
  if s.noinv || s.err == errModzero then none else some s.resInv.toNat

end Sys2Proof.Machine
end

