-- ==== Sys2Proof/Machine/Ports.lean ====
section
/-! DEFINITION. The signal-level interface (spec/20_memory.md R51): the ports in one clock cycle, what a clock edge does to
the block (spec/70_reset_and_hazards.md R180, R188, R189), and what one clock cycle of the hardware is in events of the
model. No step of the machine uses it: a step is a transaction, an engine step or a reset (log entry 17). -/

namespace Sys2Proof.Machine

/-- The input ports but for `clk` (20_memory.md R51). -/
structure PinsIn where
  rst : Bool
  req : Bool
  we : Bool
  addr : Offset
  size : BitVec 2
  wdata : Word
deriving DecidableEq, Repr

/-- The output ports (20_memory.md R51). `rdata` is there only where it is valid. -/
structure PinsOut where
  rdata : Option Word
  err : Bool
  busy : Bool
  done : Bool
deriving DecidableEq, Repr

/-- Valid read data of an answer (20_memory.md R51; 70_reset_and_hazards.md R180 for the reset cycle). -/
def Response.rdata : Response → Option Word
  | .none => Option.none
  | .readData w => some w
  | .writeDone => Option.none
  | .busError => Option.none
  | .resetIgnored => some 0#32

/-- The `err` output of an answer (20_memory.md R51). -/
def Response.err : Response → Bool
  | .none => false
  | .readData _ => false
  | .writeDone => false
  | .busError => true
  | .resetIgnored => false

/-- The access that the input ports present, for a window at `base`. -/
def PinsIn.access (p : PinsIn) (base : Nat) : Access :=
  { we := p.we, size := p.size, addr := base + p.addr.toNat, wdata := p.wdata }

/-- The transaction word that the input ports present (30_encoding.md R70). -/
def PinsIn.word (p : PinsIn) : TWord := packT p.we p.size p.addr p.wdata

/-- One host access, run on the block. -/
def transact (a : Access) (s : State) : Host.Outcome State Fault Refusal :=
  match present a s with
  | .instr i s' => exec i s'
  | .settled o => o

/-- The block after a transaction. The hardware goes on from every bus error (60_exceptions.md R160), also from one that
the model faults; the fault carries the block. -/
def blockAfter (s : State) : Host.Outcome State Fault Refusal → State
  | .next t => t
  | .fault (.busError _ _ t) => t
  | .fault (.outsideWindow _ t) => t
  | .refused _ => s

/-- The block after the transaction of a clock cycle without reset, if one is presented. -/
def afterTransaction (p : PinsIn) (s : State) : State :=
  if p.req then blockAfter s (transact (p.access s.params.base) s) else s

/-- The answer to what the input ports present in this cycle: none where no transaction is presented; in a cycle with `rst`
high the transaction is ignored (70_reset_and_hazards.md R180). -/
def answer (p : PinsIn) (s : State) : Response :=
  if p.req then (if p.rst then .resetIgnored else (afterTransaction p s).resp) else .none

/-- The output ports in a clock cycle that begins in `s`: `rdata` and `err` answer the transaction presented in this very
cycle, `busy` and `done` are copies of STATUS (20_memory.md R51, 60_exceptions.md R167). -/
def outputs (p : PinsIn) (s : State) : PinsOut :=
  { rdata := (answer p s).rdata, err := (answer p s).err, busy := s.busy, done := s.done }

/-- The clock edge that ends a cycle: a reset where `rst` is high (70_reset_and_hazards.md R180); else the transaction first
and then, if the command was running in this cycle, the engine's step (R189). A START accepted in cycle `t` has its first
engine step in cycle `t + 1`, and its last in `t + n + 1` (R188). -/
def clockEdge (p : PinsIn) (s : State) : State :=
  if p.rst then applyReset p.req s
  else
    match s.fsm with
    | .idle => afterTransaction p s
    | .run => engineStep (afterTransaction p s)

/-- Clock cycles one after another, with the input ports of each. -/
def clockEdges : List PinsIn → State → State
  | [], s => s
  | p :: ps, s => clockEdges ps (clockEdge p s)

/-- The events of one clock cycle of the hardware that begins in `s` (70_reset_and_hazards.md R180, R188, R189). -/
def cycle (p : PinsIn) (s : State) : List Event :=
  if p.rst then [.reset p.req]
  else
    (if p.req then [.host (p.access s.params.base)] else []) ++
    (match s.fsm with
      | .idle => []
      | .run => [.engine])

end Sys2Proof.Machine
end

