-- ==== Sys2Proof/Machine/Reference.lean ====
section
/-! DEFINITION. The source's functions as the spec states them: the mathematical gcd (spec/00_scope.md R8), the recursion
of the extended Euclidean algorithm (spec/42_egcd.md R131), the number of its divisions (spec/40_engine.md R97), and what a
command writes at completion as a function of its operation and operands alone (spec/40_engine.md R93). The engine is
not defined by these: that it agrees with them is for statements to say. -/

namespace Sys2Proof.Machine

/-- `gcdN(a, b)` (00_scope.md R8). -/
def gcdN (a b : Int) : Nat := Int.gcd a b

/-- The recursion of 42_egcd.md R131 to a given depth. -/
def extendedEuclidTo : Nat → Int → Int → Int × Int × Int
  | 0, a, _ => (a, 1, 0)
  | depth + 1, a, m =>
    if m = 0 then (a, 1, 0)
    else
      let (g, x1, y1) := extendedEuclidTo depth m (fmod a m)
      (g, y1, x1 - fdiv a m * y1)

/-- `extendedEuclid(a, m)` (42_egcd.md R131): each level has a smaller modulus in magnitude, so the depth `|m| + 1` is
never used up. -/
def extendedEuclid (a m : Int) : Int × Int × Int := extendedEuclidTo (m.natAbs + 1) a m

/-- The number of divisions of the recursion to a given depth. -/
def divisionsTo : Nat → Int → Int → Nat
  | 0, _, _ => 0
  | depth + 1, a, m => if m = 0 then 0 else divisionsTo depth m (fmod a m) + 1

/-- The number of divisions of the Euclidean algorithm on `(a, m)`: the iterations of a command (40_engine.md R97). -/
def divisions (a m : Int) : Nat := divisionsTo (m.natAbs + 1) a m

/-- What a completion writes (40_engine.md R93): the result registers and the flags NOINV and ERR. -/
structure Results where
  resG : GResult
  resX : Word
  resY : Word
  resInv : Word
  iters : Word
  noinv : Bool
  err : BitVec 4
deriving DecidableEq, Repr

/-- What a machine holds of these. -/
def State.results (s : State) : Results :=
  { resG := s.resG, resX := s.resX, resY := s.resY, resInv := s.resInv, iters := s.iters, noinv := s.noinv, err := s.err }

/-- RES_INV, NOINV and ERR of MODINV for the triple of `(a, m)` (43_modinv.md R140-R143). -/
def inverseResult (g x m : Int) : Word × Bool × BitVec 4 :=
  if g ≠ 1 then (0#32, true, errNone)
  else if m = 0 then (Config.modZeroInverse x m, false, errModzero)
  else (u32 (normalize x m).toNat, false, errNone)

/-- The results of a command on `(a, b)`, from the source's functions (41_gcd.md R120, 42_egcd.md R130, 43_modinv.md
R140). -/
def commandResults (W : Nat) (c : Command) (a b : Int) : Results :=
  let (g, x, y) := extendedEuclid a b
  let iters := u32 (divisions a b)
  match c with
  | .gcd =>
    { resG := { word := u32 (gcdN a b), reading := .unsigned }
      resX := 0#32, resY := 0#32, resInv := 0#32, iters := iters, noinv := false, err := errNone }
  | .egcd =>
    { resG := { word := signedResult W g, reading := .signed }
      resX := signedResult W x, resY := signedResult W y, resInv := 0#32
      iters := iters, noinv := false, err := errNone }
  | .modinv =>
    let (inv, noinv, err) := inverseResult g x b
    { resG := { word := signedResult W g, reading := .signed }
      resX := signedResult W x, resY := signedResult W y, resInv := inv
      iters := iters, noinv := noinv, err := err }

end Sys2Proof.Machine
end

