-- ==== Sys2Proof/Safety.lean ====
section
/-! DEFINITION. The terms statements use: the moves a step can make (spec/10_state.md R34), the working registers a command
reaches (spec/40_engine.md R91, R95), and the invariant of a legal state (spec/10_state.md R25-R32, spec/40_engine.md R97,
R98, R100). -/

namespace Sys2Proof

/-- The OP, CLR and START of a CTRL write; none for any other instruction (30_encoding.md R71). -/
def Instr.ctrlFields : Instr → Option (BitVec 3 × Bool × Bool)
  | .gcd clr => some (0#3, clr, true)
  | .egcd clr => some (1#3, clr, true)
  | .modinv clr => some (2#3, clr, true)
  | .illegalOp3 clr => some (3#3, clr, true)
  | .illegalOp4 clr => some (4#3, clr, true)
  | .illegalOp5 clr => some (5#3, clr, true)
  | .illegalOp6 clr => some (6#3, clr, true)
  | .illegalOp7 clr => some (7#3, clr, true)
  | .ctrl op clr => some (op, clr, false)
  | .wrOpa _ => none
  | .wrOpb _ => none
  | .rdCtrl => none
  | .rdStatus => none
  | .rdOpa => none
  | .rdOpb => none
  | .rdResG => none
  | .rdResX => none
  | .rdResY => none
  | .rdResInv => none
  | .rdIters => none

/-- The instruction is a START of the given OP, with CLR as given. -/
def Instr.Starts (i : Instr) (op : BitVec 3) (clr : Bool) : Prop := i.ctrlFields = some (op, clr, true)

/-- The instruction is a CTRL write with CLR = 1. -/
def Instr.Clears (i : Instr) : Prop := ∃ op startBit, i.ctrlFields = some (op, true, startBit)

end Sys2Proof

namespace Sys2Proof.Machine

/-- The next step runs the instruction `i`. -/
def State.Runs (s : State) (i : Instr) : Prop := ∃ s', fetch s = .instr i s'

/-- The next step is the engine's: the script says so, or it is empty. -/
def State.EngineMoves (s : State) : Prop := s.inputs = [] ∨ ∃ rest, s.inputs = .engine :: rest

/-- The next step is a reset. -/
def State.Resets (s : State) : Prop := ∃ req rest, s.inputs = .reset req :: rest

/-- The next step is an accepted START (40_engine.md R91). -/
def State.Accepts (s : State) : Prop := s.fsm = .idle ∧ ∃ i op clr, s.Runs i ∧ i.Starts op clr ∧ op.toNat < 3

/-- The next step is the rejection of an illegal command (40_engine.md R90). -/
def State.Rejects (s : State) : Prop := s.fsm = .idle ∧ ∃ i op clr, s.Runs i ∧ i.Starts op clr ∧ 3 ≤ op.toNat

/-- The next step is an overrun: a START in RUN (40_engine.md R90). -/
def State.Overruns (s : State) : Prop := s.fsm = .run ∧ ∃ i op clr, s.Runs i ∧ i.Starts op clr

/-- The next step is a CTRL write with CLR = 1 (40_engine.md R90). -/
def State.Clears (s : State) : Prop := ∃ i, s.Runs i ∧ i.Clears

/-- The next step is an iteration (40_engine.md R95). -/
def State.Iterates (s : State) : Prop := s.EngineMoves ∧ s.fsm = .run ∧ s.wk.r1 ≠ 0

/-- The next step is a completion (40_engine.md R96). -/
def State.Completes (s : State) : Prop := s.EngineMoves ∧ s.fsm = .run ∧ s.wk.r1 = 0

/-- A W-bit two's-complement value: in `[INT_MIN, INT_MAX]` (00_scope.md R5). -/
def InRange (W : Nat) (i : Int) : Prop := -(2 ^ (W - 1)) ≤ i ∧ i < 2 ^ (W - 1)

/-- The working registers after `n` iterations. -/
def iterateN : Nat → Working → Working
  | 0, w => w
  | n + 1, w => iterate (iterateN n w)

/-- The working registers at the acceptance of the command that `w` runs (40_engine.md R91). -/
def Working.atStart (w : Working) : Working := startWorking w.op w.a w.b

/-- `w` is reached by its command: from acceptance (40_engine.md R91), by `n` iterations, each made with a non-zero divisor
(R95). -/
def Working.ReachedBy (w : Working) (n : Nat) : Prop :=
  w = iterateN n w.atStart ∧ ∀ j < n, (iterateN j w.atStart).r1 ≠ 0

/-- `w` is reached by its command. -/
def Working.Reached (w : Working) : Prop := ∃ n, w.ReachedBy n

/-- A register word that a signed W-bit result can have: the sign extension of its low W bits (10_state.md R29). -/
def SignedWord (W : Nat) (v : Word) : Prop := sext32 W v = v

/-- RES_G as completions leave it (10_state.md R29, 41_gcd.md R122): unsigned and at most `2^(W-1)`, or signed. -/
def GResult.Fits (W : Nat) (g : GResult) : Prop :=
  match g.reading with
  | .unsigned => g.word.toNat ≤ 2 ^ (W - 1)
  | .signed => SignedWord W g.word

/-- The flags of STATUS hold what the rules let them hold together: ERR is 0, 1 or 2 (10_state.md R27); ERR is 0 when NOINV
is set (R25); NOINV or an error comes with DONE (60_exceptions.md R161, 40_engine.md R96). -/
def State.FlagsFit (s : State) : Prop :=
  s.err.toNat ≤ 2 ∧ (s.noinv = true → s.err = errNone ∧ s.done = true) ∧ (s.err ≠ errNone → s.done = true)

/-- In RUN: DONE, NOINV and ERR are 0 (40_engine.md R100), the latched operands are W-bit values (10_state.md R30), and the
working registers are reached by the command. -/
def State.RunFits (s : State) : Prop :=
  s.done = false ∧ s.noinv = false ∧ s.err = errNone ∧
    InRange s.params.W s.wk.a ∧ InRange s.params.W s.wk.b ∧ s.wk.Reached

/-- The invariant of a legal state: legal parameters, W stored bits in each operand register, flags and results as the rules
leave them, and a running command on its way. It says nothing of `inputs` (any script), of `resp`, of CTRL.OP (any
value is storable, 10_state.md R23), or of RES_INV (any value after MODZERO). -/
def State.Inv (s : State) : Prop :=
  s.params.wf = true ∧
  s.opa.toNat < 2 ^ s.params.W ∧ s.opb.toNat < 2 ^ s.params.W ∧
  s.FlagsFit ∧
  s.resG.Fits s.params.W ∧ SignedWord s.params.W s.resX ∧ SignedWord s.params.W s.resY ∧
  s.iters.toNat ≤ 2 * s.params.W - 2 ∧
  (s.fsm = .run → s.RunFits)

end Sys2Proof.Machine
end

