-- ==== Sys2Proof/Certificates/Slice0/Obligations.lean ====
section
/-! DEFINITION. The statements for the provers, from the numbered rules of spec/. Wherever a rule speaks of the block's
registers, `inputs` and `resp` are the model's own fields beside them (log entries 3 and 4). -/

open Sys2Proof Sys2Proof.Machine

/-! ### Encoding -/

/-- 30_encoding.md R70-R72, 20_memory.md R53: decoding an encoded instruction gives it back, whatever its operands; and the
encoder writes every bit that is not read as 0 (R74). -/
def Obligations.DecodeUndoesEncode : Prop :=
  ∀ i : Instr, decode (encode i) = .instr i ∧ TWord.canonical (encode i) = true ∧
    decodeTableWord 48 (encode i).toNat = some i

/-- 30_encoding.md R79: for every transaction word, exactly one class. At most one row of opcode_table.json matches it;
BUSERR is every word that matches none, and every word that is not legal (20_memory.md R52); where the class is an
instruction, the word matches its row, and apart from the bits that are not read it is the word of that instruction. -/
def Obligations.DecoderMatchesOpcodeTable : Prop :=
  ∀ t : TWord,
    (opcodeTable.filter (fun r => r.matches t)).length ≤ 1 ∧
    ((∃ c, decode t = .busErr c) ↔ ∀ r ∈ opcodeTable, r.matches t = false) ∧
    ((∃ c, decode t = .busErr c) ↔ legal (t.getLsbD 40) (t.extractLsb' 38 2) (t.extractLsb' 32 6) = false) ∧
    (∀ i, decode t = .instr i → i.row.matches t = true ∧ encode i = t &&& ~~~ t.ignoredMask)

/-- Sanity: transaction words written out in 95_test_vectors.md (P1-P5, BE1, BE4, BE6, BE7) decode to what they stand
for. -/
def Obligations.VectorWordsDecode : Prop :=
  decode 0x18800000005#41 = .instr (.wrOpa 5#32) ∧ decode 0x18C0000001B#41 = .instr (.wrOpb 27#32) ∧
  decode 0x18000000201#41 = .instr (.modinv false) ∧ decode 0x18000000301#41 = .instr (.illegalOp3 false) ∧
  decode 0x18000000002#41 = .instr (.ctrl 0#3 true) ∧ decode 0x09C00000000#41 = .instr .rdResInv ∧
  decode 0x18400000000#41 = .busErr .readOnly ∧ decode 0x0A400000000#41 = .busErr .unmapped ∧
  decode 0x08200000000#41 = .busErr .misaligned ∧ decode 0x10800000007#41 = .busErr .size

/-- 30_encoding.md R74: a command word with reserved bits set behaves exactly like the same word with those bits clear, and
the reserved bits of CTRL read 0. -/
def Obligations.ReservedBitsAreIgnored : Prop :=
  (∀ d : Word, decode (packT true 2#2 0x00#6 d) = decode (packT true 2#2 0x00#6 (d &&& 0x00000703#32))) ∧
  ∀ s : State, ∃ w, exec .rdCtrl s = .next { s with resp := .readData w } ∧ w &&& ~~~ 0x00000700#32 = 0#32

/-! ### Transactions and the step -/

/-- 20_memory.md R52, 60_exceptions.md R160: a presented transaction is answered with `err = 0` if it is legal; and if not,
it is answered with a bus error: `err = 1`, no read data, and nothing of the block changes (a running command goes on).
Of a read, the model faults it rather than give it any data word. -/
def Obligations.OnlyLegalTransactionsHaveEffect : Prop :=
  ∀ (s : State) (a : Access) (rest : List Event) (off : Offset),
    s.inputs = .host a :: rest → windowOffset s.params a.addr = some off →
    let isLegal : Prop := a.size = 2#2 ∧ off.toNat % 4 = 0 ∧ off.toNat ≤ 0x20 ∧
      (a.we = true → off = 0x00#6 ∨ off = 0x08#6 ∨ off = 0x0C#6)
    (isLegal → ∃ t, step s = .next t ∧ t.resp.err = false) ∧
    (¬ isLegal →
      let t := { s with inputs := rest, resp := .busError }
      (step s = .next t ∨ ∃ c, step s = .fault (.busError off c t)) ∧
      (a.we = false → ∃ c, step s = .fault (.busError off c t)) ∧
      t.resp.err = true ∧ t.resp.rdata = none)

/-- THE MODEL'S CHOICE (log entry 5): which bus errors end the run. The machine goes on from a write with the size of one or
two bytes, a misaligned offset or a read-only register; every other bus error is a fault that carries the state. -/
def Obligations.BusErrorsThatEndTheRun : Prop :=
  ∀ (s : State) (a : Access) (rest : List Event) (off : Offset),
    s.inputs = .host a :: rest → windowOffset s.params a.addr = some off → legal a.we a.size off = false →
    if a.we = true ∧ a.size ≠ 3#2 ∧ off.toNat < 0x24 then
      step s = .next { s with inputs := rest, resp := .busError }
    else ∃ c, step s = .fault (.busError off c { s with inputs := rest, resp := .busError })

/-- 00_scope.md R2, 30_encoding.md R79: where the next event is a host access that decodes to an instruction, the step is
that instruction's meaning, on the state with the event taken; a poll of `wait` is a read of STATUS, after which the host
polls again exactly if BUSY was 1 (30_encoding.md R78), in this model with one engine step between (log entry 12). -/
def Obligations.StepRunsTheDecodedTransaction : Prop :=
  (∀ (s : State) (a : Access) (rest : List Event) (off : Offset) (i : Instr),
    s.inputs = .host a :: rest → windowOffset s.params a.addr = some off →
    decode (packT a.we a.size off a.wdata) = .instr i → step s = exec i { s with inputs := rest }) ∧
  (∀ (s : State) (rest : List Event), s.inputs = .wait :: rest →
    step s = exec .rdStatus
      { s with inputs := if s.fsm = .run then .engine :: .wait :: rest else rest })

/-- A transaction word placed as the next event is the instruction the next step runs, at any BASE (20_memory.md R50). -/
def Obligations.PlacedWordRunsNext : Prop :=
  ∀ (s : State) (nbits w : Nat) (i : Instr),
    decodeTableWord nbits w = some i → step (s.withFetchWord nbits w) = exec i s

/-- No step is refused; a fault that the model raises carries a block in which nothing of the block has changed. That no
bus error changes anything is 60_exceptions.md R160; that no condition stops the block is R164. WHAT ENDS THE RUN IS THE
MODEL'S: which bus errors are faults is log entry 5 (DEDUCED), and that an access outside the window is a fault is log entry
13 (DESIGN CHOICE), since of other addresses the spec says only that they do not reach the block (20_memory.md R50). -/
def Obligations.FaultsLeaveTheBlockUnchanged : Prop :=
  ∀ s : State,
    (∀ r, step s ≠ .refused r) ∧
    (∀ off c t, step s = .fault (.busError off c t) →
      t = { s with inputs := s.inputs.tail, resp := .busError } ∧
      ∃ a, s.inputs.head? = some (.host a) ∧ legal a.we a.size off = false) ∧
    (∀ addr t, step s = .fault (.outsideWindow addr t) →
      t = { s with inputs := s.inputs.tail } ∧ (addr < s.params.base ∨ s.params.base + 64 ≤ addr))

/-! ### Reads and operand writes -/

/-- 20_memory.md R58: each legal read answers with the register's current word and changes nothing; a read that is not
legal raises the bus error, which the model faults, and returns no data. -/
def Obligations.ReadsAnswerTheRegister : Prop :=
  (∀ s : State,
    exec .rdCtrl s = .next { s with resp := .readData (BitVec.ofNat 32 (s.op.toNat * 256)) } ∧
    exec .rdStatus s = .next { s with resp := .readData (BitVec.ofNat 32
      (s.err.toNat * 16 + s.ovr.toNat * 8 + s.noinv.toNat * 4 + s.done.toNat * 2 +
        (if s.fsm = .run then 1 else 0))) } ∧
    exec .rdOpa s = .next { s with resp := .readData (sext32 s.params.W s.opa) } ∧
    exec .rdOpb s = .next { s with resp := .readData (sext32 s.params.W s.opb) } ∧
    exec .rdResG s = .next { s with resp := .readData s.resG.word } ∧
    exec .rdResX s = .next { s with resp := .readData s.resX } ∧
    exec .rdResY s = .next { s with resp := .readData s.resY } ∧
    exec .rdResInv s = .next { s with resp := .readData s.resInv } ∧
    exec .rdIters s = .next { s with resp := .readData s.iters }) ∧
  (∀ (s : State) (a : Access) (rest : List Event) (off : Offset),
    s.inputs = .host a :: rest → windowOffset s.params a.addr = some off → a.we = false →
    legal false a.size off = false →
    ∃ c t, step s = .fault (.busError off c t) ∧ t.resp.rdata = none)

/-- 10_state.md R28 (and 20_memory.md R59): a write of OPA or OPB stores the low W bits whatever the FSM state, a running
command is not affected, a read returns the sign extension of the stored bits, which is the W-bit value of the written
word; with W = 32 it is the written word; both reset to 0. -/
def Obligations.OperandRegistersHoldWBits : Prop :=
  (∀ (s : State) (d : Word), s.params.wf = true →
    ∃ v : Word, v.toNat = d.toNat % 2 ^ s.params.W ∧
      exec (.wrOpa d) s = .next { s with opa := v, resp := .writeDone } ∧
      exec (.wrOpb d) s = .next { s with opb := v, resp := .writeDone } ∧
      ∃ x : Int, InRange s.params.W x ∧ (2 ^ s.params.W : Int) ∣ x - d.toNat ∧
        exec .rdOpa { s with opa := v } = .next { s with opa := v, resp := .readData (BitVec.ofInt 32 x) } ∧
        exec .rdOpb { s with opb := v } = .next { s with opb := v, resp := .readData (BitVec.ofInt 32 x) } ∧
        (s.params.W = 32 → BitVec.ofInt 32 x = d)) ∧
  ∀ p : Params, (State.resetWith p).opa = 0#32 ∧ (State.resetWith p).opb = 0#32

/-- 20_memory.md R54: byte `off + i` of a register holds its bits `8i` to `8i + 7`. -/
def Obligations.WindowBytesAreLittleEndian : Prop :=
  ∀ (s : State) (r : Reg) (i j : Nat), i < 4 → j < 8 →
    ∃ b, windowByte s (r.offset + BitVec.ofNat 6 i) = some b ∧
      b.getLsbD j = (readReg s r).getLsbD (8 * i + j)

/-- The frame of the reads: nothing but the answer changes, no byte of the window among it (20_memory.md R57, R58). -/
def Obligations.ReadsChangeNothing : Prop :=
  ∀ (i : Instr) (s t : State), i.ctrlFields = none → (∀ d, i ≠ .wrOpa d ∧ i ≠ .wrOpb d) →
    exec i s = .next t → t = { s with resp := t.resp } ∧ ∀ off, windowByte t off = windowByte s off

/-- The frame of the operand writes: only the operand register and the answer change; every byte of the window outside the
register's four reads as before (20_memory.md R57, R59; 40_engine.md R92). -/
def Obligations.OperandWriteFrame : Prop :=
  ∀ (d : Word) (s t : State),
    (exec (.wrOpa d) s = .next t →
      t = { s with opa := t.opa, resp := t.resp } ∧
      ∀ off : Offset, (off.toNat < 0x08 ∨ 0x0B < off.toNat) → windowByte t off = windowByte s off) ∧
    (exec (.wrOpb d) s = .next t →
      t = { s with opb := t.opb, resp := t.resp } ∧
      ∀ off : Offset, (off.toNat < 0x0C ∨ 0x0F < off.toNat) → windowByte t off = windowByte s off)

/-! ### CTRL writes -/

/-- 30_encoding.md R76: a CTRL write with START = 0 stores OP, and with CLR = 1 clears the four flags; it starts nothing.
Writing 0x00000000 only sets OP to 0. -/
def Obligations.ControlFormStartsNothing : Prop :=
  (∀ (s : State) (op : BitVec 3),
    exec (.ctrl op false) s = .next { s with op := op, resp := .writeDone } ∧
    exec (.ctrl op true) s = .next { s with
      op := op, done := false, noinv := false, ovr := false, err := 0#4, resp := .writeDone }) ∧
  decode (packT true 2#2 0x00#6 0x00000000#32) = .instr (.ctrl 0#3 false)

/-- 40_engine.md R90, R91: in IDLE, a START with OP 0, 1 or 2 is accepted: OP is stored, CLR applied first, the operands
latched as signed W-bit values, the working registers initialised, DONE, NOINV and ERR cleared, OVR kept unless CLR; the
results are kept. -/
def Obligations.StartIsAcceptedInIdle : Prop :=
  ∀ (s : State) (clr : Bool), s.fsm = .idle →
    let a := sint s.params.W s.opa
    let b := sint s.params.W s.opb
    let started (op : BitVec 3) (c : Command) : State := { s with
      op := op, done := false, noinv := false, ovr := if clr then false else s.ovr, err := 0#4, fsm := .run
      wk := { op := c, a := a, b := b, r0 := a, r1 := b, s0 := 1, s1 := 0, t0 := 0, t1 := 1, k := 0#7 }
      resp := .writeDone }
    exec (.gcd clr) s = .next (started 0#3 .gcd) ∧
    exec (.egcd clr) s = .next (started 1#3 .egcd) ∧
    exec (.modinv clr) s = .next (started 2#3 .modinv)

/-- 40_engine.md R90, 60_exceptions.md R161: in IDLE, a START with OP 3 to 7 is rejected: OP is stored, CLR applied first,
DONE = 1, NOINV = 0, ERR = 1; no result, no working register and not OVR (unless CLR) changes, and the FSM stays IDLE. -/
def Obligations.IllegalCommandIsRejectedInIdle : Prop :=
  ∀ (s : State) (clr : Bool), s.fsm = .idle →
    let rejected (op : BitVec 3) : State := { s with
      op := op, done := true, noinv := false, ovr := if clr then false else s.ovr, err := 1#4
      resp := .writeDone }
    exec (.illegalOp3 clr) s = .next (rejected 3#3) ∧
    exec (.illegalOp4 clr) s = .next (rejected 4#3) ∧
    exec (.illegalOp5 clr) s = .next (rejected 5#3) ∧
    exec (.illegalOp6 clr) s = .next (rejected 6#3) ∧
    exec (.illegalOp7 clr) s = .next (rejected 7#3)

/-- 40_engine.md R90, 60_exceptions.md R163, R166: in RUN, every START, legal or not, is dropped: OP is stored, CLR
applied, OVR set; the running command, the results and ERR (unless CLR) are as before. -/
def Obligations.StartIsDroppedInRun : Prop :=
  ∀ (s : State) (i : Instr) (op : BitVec 3) (clr : Bool), s.fsm = .run → i.Starts op clr →
    exec i s = .next { s with
      op := op, ovr := true
      done := if clr then false else s.done, noinv := if clr then false else s.noinv
      err := if clr then 0#4 else s.err, resp := .writeDone }

/-- 40_engine.md R100, 70_reset_and_hazards.md R186: in RUN, STATUS reads BUSY = 1, DONE = 0, NOINV = 0 and ERR = 0, with
OVR at its current value; and a STATUS read right after an accepted START reads BUSY = 1. -/
def Obligations.StatusReadsBusyInRun : Prop :=
  (∀ s : State, s.Inv → s.fsm = .run →
    exec .rdStatus s = .next { s with resp := .readData (if s.ovr then 0x00000009#32 else 0x00000001#32) }) ∧
  ∀ (s : State) (i : Instr) (op : BitVec 3) (clr : Bool), s.fsm = .idle → i.Starts op clr → op.toNat < 3 →
    ∃ t u w, exec i s = .next t ∧ exec .rdStatus t = .next u ∧ u.resp = .readData w ∧ w.getLsbD 0 = true

/-- 70_reset_and_hazards.md R187: in RUN, a CLR clears OVR only, and does not abort: a command leaves RUN only by its
completion or a reset. -/
def Obligations.ClearDoesNotAbort : Prop :=
  (∀ (s : State) (op : BitVec 3), s.Inv → s.fsm = .run →
    exec (.ctrl op true) s = .next { s with op := op, ovr := false, resp := .writeDone }) ∧
  ∀ s t : State, s.fsm = .run → step s = .next t → t.fsm = .idle → s.Completes ∨ s.Resets

/-- The frame of the CTRL writes: operands, results, parameters and script stay; the working registers and the FSM change
only where a START with a legal OP is accepted; every byte of the window outside CTRL and STATUS reads as before
(40_engine.md R90). -/
def Obligations.ControlWriteFrame : Prop :=
  ∀ (i : Instr) (s t : State) (op : BitVec 3) (clr startBit : Bool),
    i.ctrlFields = some (op, clr, startBit) → exec i s = .next t →
    t = { s with
      op := op, done := t.done, noinv := t.noinv, ovr := t.ovr, err := t.err, fsm := t.fsm, wk := t.wk
      resp := t.resp } ∧
    (¬ (s.fsm = .idle ∧ startBit = true ∧ op.toNat < 3) → t.fsm = s.fsm ∧ t.wk = s.wk) ∧
    ∀ off : Offset, 0x08 ≤ off.toNat → windowByte t off = windowByte s off

/-- 10_state.md R34: who writes each STATUS field, over every step. -/
def Obligations.StatusWritersAreComplete : Prop :=
  ∀ s t : State, step s = .next t →
    (s.fsm = .idle → t.fsm = .run → s.Accepts) ∧
    (s.fsm = .run → t.fsm = .idle → s.Completes ∨ s.Resets) ∧
    (s.done = false → t.done = true → s.Completes ∨ s.Rejects) ∧
    (s.done = true → t.done = false → s.Accepts ∨ s.Clears ∨ s.Resets) ∧
    (s.noinv = false → t.noinv = true → s.Completes ∧ s.wk.op = .modinv ∧ s.wk.r0 ≠ 1) ∧
    (s.noinv = true → t.noinv = false → s.Accepts ∨ s.Rejects ∨ s.Clears ∨ s.Resets) ∧
    (s.ovr = false → t.ovr = true → s.Overruns) ∧
    (s.ovr = true → t.ovr = false → s.Clears ∨ s.Resets) ∧
    (s.err ≠ t.err →
      (t.err = 1#4 ∧ s.Rejects) ∨
      (t.err = 2#4 ∧ s.Completes ∧ s.wk.op = .modinv ∧ s.wk.r0 = 1 ∧ s.wk.b = 0) ∨
      (t.err = 0#4 ∧ (s.Accepts ∨ s.Clears ∨ s.Resets)))

/-! ### The engine's step -/

/-- 40_engine.md R94: the engine has a step exactly in RUN; it is an iteration where `r1` is not 0 (which completes
nothing), the completion where it is 0. The last clause is of the hardware's clock cycles and rests on log
entry 17 (DEDUCED from 20_memory.md R51 and 70_reset_and_hazards.md R188, R189): every cycle without reset that begins in RUN
gives the engine a step, and none that begins in IDLE does, the cycle of an accepted START among them. -/
def Obligations.EngineStepsExactlyInRun : Prop :=
  (∀ s : State, s.EngineMoves →
    (s.fsm = .idle → step s = .next { s with inputs := s.inputs.tail }) ∧
    (s.fsm = .run → s.wk.r1 ≠ 0 → step s = .next { s with inputs := s.inputs.tail, wk := iterate s.wk }) ∧
    (s.fsm = .run → s.wk.r1 = 0 → ∃ t, step s = .next t ∧ t.fsm = .idle ∧ t.done = true)) ∧
  ∀ (p : PinsIn) (s : State), p.rst = false →
    (s.fsm = .run → (cycle p s).getLast? = some .engine) ∧ (s.fsm = .idle → Event.engine ∉ cycle p s)

/-- 40_engine.md R95: the iteration divides with the quotient rounded toward minus infinity (00_scope.md R7: the
remainder is 0 or has the sign of the divisor, and is smaller), updates both coefficient pairs by it and counts; it writes
no host-visible register and no flag. With the example of the rule. -/
def Obligations.IterationIsOneFloorDivision : Prop :=
  (∀ s : State, s.EngineMoves → s.fsm = .run → s.wk.r1 ≠ 0 →
    ∃ q : Int,
      ((0 ≤ s.wk.r0 - q * s.wk.r1 ∧ s.wk.r0 - q * s.wk.r1 < s.wk.r1) ∨
        (s.wk.r1 < s.wk.r0 - q * s.wk.r1 ∧ s.wk.r0 - q * s.wk.r1 ≤ 0)) ∧
      step s = .next { s with
        inputs := s.inputs.tail
        wk := { s.wk with
          r0 := s.wk.r1, r1 := s.wk.r0 - q * s.wk.r1
          s0 := s.wk.s1, s1 := s.wk.s0 - q * s.wk.s1
          t0 := s.wk.t1, t1 := s.wk.t0 - q * s.wk.t1
          k := s.wk.k + 1#7 } }) ∧
  ∀ w : Working, w.r0 = 240 → w.r1 = 46 → w.s0 = 1 → w.s1 = 0 → w.t0 = 0 → w.t1 = 1 →
    (iterate w).r0 = 46 ∧ (iterate w).r1 = 10 ∧ (iterate w).s0 = 0 ∧ (iterate w).s1 = 1 ∧
      (iterate w).t0 = 1 ∧ (iterate w).t1 = -5

/-- 40_engine.md R96 with the completions of GCD and EGCD (41_gcd.md R120, 42_egcd.md R130): the five results, DONE and IDLE
in one step; nothing else that a host can observe changes (of the working registers in IDLE it says nothing: log entry
8). -/
def Obligations.GcdAndEgcdCompletionStep : Prop :=
  ∀ s : State, s.EngineMoves → s.fsm = .run → s.wk.r1 = 0 →
    (s.wk.op = .gcd → ∃ t, step s = .next t ∧ t = { s with
      inputs := s.inputs.tail, fsm := .idle, done := true, wk := t.wk
      resG := { word := BitVec.ofNat 32 s.wk.r0.natAbs, reading := .unsigned }
      resX := 0#32, resY := 0#32, resInv := 0#32, iters := BitVec.ofNat 32 s.wk.k.toNat }) ∧
    (s.wk.op = .egcd → ∃ t, step s = .next t ∧ t = { s with
      inputs := s.inputs.tail, fsm := .idle, done := true, wk := t.wk
      resG := { word := signedResult s.params.W s.wk.r0, reading := .signed }
      resX := signedResult s.params.W s.wk.s0, resY := signedResult s.params.W s.wk.t0
      resInv := 0#32, iters := BitVec.ofNat 32 s.wk.k.toNat })

/-- 40_engine.md R96 with the completion of MODINV (43_modinv.md R140, 60_exceptions.md R166): NOINV is tested before
MODZERO, and the inverse is `x`, or `x + m` where `x < 0`, reduced modulo m. After MODZERO the model leaves RES_INV
any value (log entry 6), and of the working registers in IDLE it says nothing (log entry 8). -/
def Obligations.ModinvCompletionStep : Prop :=
  ∀ s : State, s.EngineMoves → s.fsm = .run → s.wk.r1 = 0 →
    s.wk.op = .modinv →
    ∃ t, step s = .next t ∧
      t = { s with
        inputs := s.inputs.tail, fsm := .idle, done := true, wk := t.wk
        resG := { word := signedResult s.params.W s.wk.r0, reading := .signed }
        resX := signedResult s.params.W s.wk.s0, resY := signedResult s.params.W s.wk.t0
        iters := BitVec.ofNat 32 s.wk.k.toNat
        resInv := t.resInv, noinv := t.noinv, err := t.err } ∧
      (s.wk.r0 ≠ 1 → t.noinv = true ∧ t.err = s.err ∧ t.resInv = 0#32) ∧
      (s.wk.r0 = 1 → s.wk.b = 0 → t.noinv = s.noinv ∧ t.err = 2#4) ∧
      (s.wk.r0 = 1 → s.wk.b ≠ 0 → t.noinv = s.noinv ∧ t.err = s.err ∧
        t.resInv = BitVec.ofNat 32
          (Int.fmod (if s.wk.s0 < 0 then s.wk.s0 + s.wk.b else s.wk.s0) s.wk.b).toNat)

/-- THE MODEL'S READING (log entry 8, DEDUCED): in IDLE the working registers hold the last values of the command, until the
next acceptance or a reset. 93_implementation_defined.md says so of the hardware, says that no host can observe it, and has a
model treat the values as any value. -/
def Obligations.IdleHoldsTheWorkingRegisters : Prop :=
  ∀ s t : State, step s = .next t → t.fsm = .idle → t.wk = s.wk ∨ s.Resets

/-! ### Laws of the iteration -/

/-- 40_engine.md R97: a running command completes, after at most `2W - 2` iterations and so at most `2W - 1` engine
steps. -/
def Obligations.EveryCommandCompletes : Prop :=
  ∀ s : State, s.Inv → s.fsm = .run → s.inputs = [] →
    ∃ n t, n ≤ 2 * s.params.W - 1 ∧ Host.Core.run Sys2Proof.core n s = .next t ∧
      t.fsm = .idle ∧ t.done = true ∧ t.iters.toNat ≤ 2 * s.params.W - 2 ∧
      t.iters.toNat = divisions s.wk.a s.wk.b

/-- 40_engine.md R97 and 70_reset_and_hazards.md R188: at the source's sizes (operands of magnitude at most 27) a command
has at most 7 iterations, and at most 6 where the modulus is 27, whatever `a`. -/
def Obligations.FewIterationsAtModulus27 : Prop :=
  (∀ a b : Int, -27 ≤ a → a ≤ 27 → -27 ≤ b → b ≤ 27 → divisions a b ≤ 7) ∧
  ∀ a : Int, divisions a 27 ≤ 6

/-- 40_engine.md R98: every value the working registers reach fits (W+2)-bit two's complement, and so do the quotient and
products of an iteration; the results fit W bits; the counter does not wrap. -/
def Obligations.WorkingRegistersFit : Prop :=
  ∀ (p : Params) (w : Working) (n : Nat), p.wf = true → InRange p.W w.a → InRange p.W w.b → w.ReachedBy n →
    |w.r0| ≤ 2 ^ (p.W - 1) ∧ |w.r1| ≤ 2 ^ (p.W - 1) ∧ |w.s0| ≤ 2 ^ (p.W - 1) ∧ |w.s1| ≤ 2 ^ (p.W - 1) ∧
    |w.t0| ≤ 2 ^ (p.W - 1) ∧ |w.t1| ≤ 2 ^ (p.W - 1) ∧
    (w.r1 ≠ 0 → |fdiv w.r0 w.r1| ≤ 2 ^ (p.W - 1) ∧ |fdiv w.r0 w.r1 * w.r1| ≤ 2 ^ p.W ∧
      |fdiv w.r0 w.r1 * w.s1| ≤ 2 ^ p.W ∧ |fdiv w.r0 w.r1 * w.t1| ≤ 2 ^ p.W) ∧
    (w.r1 = 0 → InRange p.W w.r0 ∧ |w.s0| ≤ 2 ^ (p.W - 2) ∧ |w.t0| ≤ 2 ^ (p.W - 2)) ∧
    n ≤ 2 * p.W - 2 ∧ w.k.toNat = n

/-- 40_engine.md R99: the loop invariants, and at the completion the triple of the source's recursion. -/
def Obligations.IterationEqualsRecursion : Prop :=
  ∀ w : Working, w.Reached →
    w.r0 = w.a * w.s0 + w.b * w.t0 ∧ w.r1 = w.a * w.s1 + w.b * w.t1 ∧
    (w.r1 = 0 → (w.r0, w.s0, w.t0) = extendedEuclid w.a w.b)

/-- 40_engine.md R93 (with R96, R100): a step from RUN stays in RUN with the same command and operands and the previous
results, or completes with results that are a function of the command and its latched operands alone, or is a reset, which
abandons it. Whatever the host does in between changes none of that. -/
def Obligations.ResultsDependOnLatchedOperandsOnly : Prop :=
  ∀ s t : State, s.Inv → s.fsm = .run → step s = .next t →
    (t.fsm = .run ∧ t.wk.op = s.wk.op ∧ t.wk.a = s.wk.a ∧ t.wk.b = s.wk.b ∧ t.done = false ∧
      t.results = s.results) ∨
    (s.Completes ∧ t.fsm = .idle ∧ t.done = true ∧ t.ovr = s.ovr ∧
      t.results = commandResults s.params.W s.wk.op s.wk.a s.wk.b) ∨
    (s.Resets ∧ t.fsm = .idle ∧ t.done = false ∧ ∀ r, readReg t r = 0#32)

/-! ### The commands, from START to completion -/

/-- 41_gcd.md R120: GCD, accepted in IDLE and left to run, ends in IDLE with RES_G the gcd as an unsigned word, the other
results 0, ITERS the number of divisions, one engine step more than that, DONE set, NOINV and ERR 0, OVR as the CTRL write
left it. With the corner cases and the example of the rule. -/
def Obligations.GcdCommandComputesTheGcd : Prop :=
  (∀ (s : State) (clr : Bool), s.Inv → s.fsm = .idle → s.inputs = [] →
    let a := sint s.params.W s.opa
    let b := sint s.params.W s.opb
    ∃ t u, exec (.gcd clr) s = .next t ∧
      Host.Core.run Sys2Proof.core (divisions a b + 1) t = .next u ∧
      u = { s with
        op := 0#3, done := true, noinv := false, err := 0#4, ovr := if clr then false else s.ovr
        resG := { word := BitVec.ofNat 32 (gcdN a b), reading := .unsigned }
        resX := 0#32, resY := 0#32, resInv := 0#32, iters := BitVec.ofNat 32 (divisions a b)
        fsm := .idle, wk := u.wk, resp := .writeDone } ∧
      gcdN a b ≤ 2 ^ (s.params.W - 1) ∧ divisions a b ≤ 2 * s.params.W - 2) ∧
  (∀ a : Int, gcdN a 0 = a.natAbs ∧ divisions a 0 = 0) ∧
  (∀ b : Int, b ≠ 0 → gcdN 0 b = b.natAbs ∧ divisions 0 b = 1 ∧ gcdN b b = b.natAbs ∧ divisions b b = 1) ∧
  gcdN 48 18 = 6 ∧ divisions 48 18 = 3

/-- 42_egcd.md R130: EGCD, accepted in IDLE and left to run, ends in IDLE with the triple of the recursion as signed
words, RES_INV 0, ITERS the number of divisions, DONE set, NOINV and ERR 0. -/
def Obligations.EgcdCommandComputesTheTriple : Prop :=
  (∀ (s : State) (clr : Bool), s.Inv → s.fsm = .idle → s.inputs = [] →
    let a := sint s.params.W s.opa
    let m := sint s.params.W s.opb
    let (g, x, y) := extendedEuclid a m
    ∃ t u, exec (.egcd clr) s = .next t ∧
      Host.Core.run Sys2Proof.core (divisions a m + 1) t = .next u ∧
      u = { s with
        op := 1#3, done := true, noinv := false, err := 0#4, ovr := if clr then false else s.ovr
        resG := { word := BitVec.ofInt 32 g, reading := .signed }
        resX := BitVec.ofInt 32 x, resY := BitVec.ofInt 32 y, resInv := 0#32
        iters := BitVec.ofNat 32 (divisions a m)
        fsm := .idle, wk := u.wk, resp := .writeDone } ∧
      InRange s.params.W g ∧ |x| ≤ 2 ^ (s.params.W - 2) ∧ |y| ≤ 2 ^ (s.params.W - 2) ∧
      divisions a m ≤ 2 * s.params.W - 2) ∧
  (∀ a : Int, extendedEuclid a 0 = (a, 1, 0) ∧ extendedEuclid a 1 = (1, 0, 1) ∧
    extendedEuclid a (-1) = (-1, 0, 1) ∧ fdiv a (-1) = -a) ∧
  (∀ m : Int, m ≠ 0 → extendedEuclid 0 m = (m, 0, 1) ∧ extendedEuclid m m = (m, 0, 1)) ∧
  extendedEuclid 240 46 = (2, -9, 47) ∧ divisions 240 46 = 5

/-- 43_modinv.md R140 to R142: MODINV, accepted in IDLE and left to run, ends in IDLE with the triple as signed words and
the inverse: absent (NOINV, RES_INV = 0) where `g` is not 1; in `[0, m)` and an inverse of `a` modulo m (of any integer
congruent to it, 0 for m = 1) where `g = 1` and `m >= 1`; MODZERO where `g = 1` and `m = 0`, RES_INV then being any value
(log entry 6). -/
def Obligations.ModinvCommandComputesTheInverse : Prop :=
  (∀ (s : State) (clr : Bool), s.Inv → s.fsm = .idle → s.inputs = [] →
    let a := sint s.params.W s.opa
    let m := sint s.params.W s.opb
    let (g, x, y) := extendedEuclid a m
    ∃ t u, exec (.modinv clr) s = .next t ∧ divisions a m ≤ 2 * s.params.W - 2 ∧
      Host.Core.run Sys2Proof.core (divisions a m + 1) t = .next u ∧
      u = { s with
        op := 2#3, done := true, noinv := u.noinv, err := u.err, ovr := if clr then false else s.ovr
        resG := { word := BitVec.ofInt 32 g, reading := .signed }
        resX := BitVec.ofInt 32 x, resY := BitVec.ofInt 32 y, resInv := u.resInv
        iters := BitVec.ofNat 32 (divisions a m)
        fsm := .idle, wk := u.wk, resp := .writeDone } ∧
      (u.noinv = true ↔ g ≠ 1) ∧ (u.err = 2#4 ↔ g = 1 ∧ m = 0) ∧ (u.err ≠ 2#4 → u.err = 0#4) ∧
      (g ≠ 1 → u.resInv = 0#32) ∧
      (g = 1 → m ≠ 0 → 1 ≤ m ∧ (u.resInv.toNat : Int) < m ∧ m ∣ a * u.resInv.toNat - 1)) ∧
  extendedEuclid 5 27 = (1, 11, -2) ∧ divisions 5 27 = 4

/-! ### The arithmetic of the results -/

/-- 41_gcd.md R121: at completion the magnitude of `r0` is the gcd, and the identities of the gcd. -/
def Obligations.RemainderEndsAtTheGcd : Prop :=
  (∀ w : Working, w.Reached → w.r1 = 0 → w.r0.natAbs = gcdN w.a w.b) ∧
  (∀ a : Int, gcdN a 0 = a.natAbs ∧ gcdN 0 a = a.natAbs) ∧
  (∀ a b : Int, b ≠ 0 → gcdN a b = gcdN b (fmod a b)) ∧
  ∀ a b : Int, gcdN a b = gcdN b a

/-- 41_gcd.md R122, 42_egcd.md R134: read as the model keeps them, RES_G after EGCD has the magnitude of RES_G after GCD,
which is the gcd as a natural number, at most `2^(W-1)`; that value is reached only by operands 0 and `INT_MIN`; with W = 32
the two words are then equal and the two values distinct. ITERS is the same for both. -/
def Obligations.GcdIsUnsignedAndEgcdSigned : Prop :=
  (∀ (p : Params) (a b : Int), p.wf = true → InRange p.W a → InRange p.W b →
    let u := commandResults p.W .gcd a b
    let v := commandResults p.W .egcd a b
    u.resG.value = gcdN a b ∧ (v.resG.value.natAbs : Int) = u.resG.value ∧ v.iters = u.iters ∧
    gcdN a b ≤ 2 ^ (p.W - 1) ∧
    (gcdN a b = 2 ^ (p.W - 1) ↔
      (a = 0 ∨ a = -(2 ^ (p.W - 1))) ∧ (b = 0 ∨ b = -(2 ^ (p.W - 1))) ∧ (a ≠ 0 ∨ b ≠ 0))) ∧
  let u := commandResults 32 .gcd (-(2 ^ 31)) 0
  let v := commandResults 32 .egcd (-(2 ^ 31)) 0
  u.resG.word = 0x80000000#32 ∧ v.resG.word = 0x80000000#32 ∧ u.resG.value = 2 ^ 31 ∧
    v.resG.value = -(2 ^ 31) ∧ u.resG ≠ v.resG

/-- 42_egcd.md R131: the recursion satisfies its defining equations (the depth of its definition is never used up), its
moduli shrink, the Bezout identity holds, and the triple for (240, 46) is the one the rule gives. -/
def Obligations.RecursionIsTheSources : Prop :=
  (∀ a : Int, extendedEuclid a 0 = (a, 1, 0)) ∧
  (∀ a m : Int, m ≠ 0 →
    let (g, x1, y1) := extendedEuclid m (fmod a m)
    extendedEuclid a m = (g, y1, x1 - fdiv a m * y1) ∧ (fmod a m).natAbs < m.natAbs) ∧
  (∀ a m : Int, let (g, x, y) := extendedEuclid a m; a * x + m * y = g) ∧
  extendedEuclid 240 46 = (2, -9, 47)

/-- 42_egcd.md R132: the magnitude of `g`, the bounds of the coefficients of W-bit operands, and where `m > 0` and `g = 1` the
range the normalizer relies on. -/
def Obligations.CoefficientsAreBounded : Prop :=
  ∀ (p : Params) (a m : Int), p.wf = true → InRange p.W a → InRange p.W m →
    let (g, x, y) := extendedEuclid a m
    a * x + m * y = g ∧ g.natAbs = gcdN a m ∧ |x| ≤ 2 ^ (p.W - 2) ∧ |y| ≤ 2 ^ (p.W - 2) ∧
    (0 < m → g = 1 → -m ≤ x ∧ x < m)

/-- 42_egcd.md R133: the sign of `g`, and the examples of the rule. -/
def Obligations.SignOfTheRecursionsGcd : Prop :=
  (∀ a m : Int, 0 < m → (extendedEuclid a m).1 = gcdN a m ∧ 1 ≤ (extendedEuclid a m).1) ∧
  (∀ a : Int, (extendedEuclid a 0).1 = a) ∧
  (∀ a m : Int, m < 0 → (extendedEuclid a m).1 = -(gcdN a m : Int) ∧ (extendedEuclid a m).1 ≤ -1) ∧
  extendedEuclid 5 (-3) = (-1, 1, 2) ∧ extendedEuclid (-7) 0 = (-7, 1, 0) ∧ extendedEuclid 0 (-7) = (-7, 0, 1)

/-- 43_modinv.md R141: the existence test, by the sign of m; where there is no inverse RES_INV is 0. -/
def Obligations.InverseExistsExactly : Prop :=
  ∀ (W : Nat) (a m : Int),
    let r := commandResults W .modinv a m
    (r.noinv = true ↔ (extendedEuclid a m).1 ≠ 1) ∧
    (0 < m → (r.noinv = true ↔ gcdN a m ≠ 1)) ∧
    (m = 0 → (r.noinv = true ↔ a ≠ 1)) ∧
    (m < 0 → r.noinv = true) ∧
    (r.noinv = true → r.resInv = 0#32)

/-- 43_modinv.md R142: the normalizer is the floor remainder, lies in `[0, m)`, and on the range it is reached with is one
conditional addition; with the example. -/
def Obligations.NormalizerIsOneConditionalAdd : Prop :=
  (∀ x m : Int, 1 ≤ m →
    normalize x m = fmod x m ∧ 0 ≤ normalize x m ∧ normalize x m < m ∧
    (-m ≤ x → x < m → normalize x m = (if x < 0 then x + m else x) ∧
      normalize x m = Int.tmod (if x < 0 then x + m else x) m)) ∧
  (∀ a m : Int, 1 ≤ m → (extendedEuclid a m).1 = 1 →
    -m ≤ (extendedEuclid a m).2.1 ∧ (extendedEuclid a m).2.1 < m) ∧
  normalize (-13) 27 = 14

/-- 43_modinv.md R143 but for the value of RES_INV, which the model leaves free (log entry 6): MODZERO is the MODINV of
`a = 1` modulo 0 and nothing else; NOINV stays 0, the triple is (1, 1, 0), ITERS is 0. -/
def Obligations.ModzeroIsOneModuloZero : Prop :=
  ∀ (W : Nat) (a m : Int), 4 ≤ W → W ≤ 32 →
    let r := commandResults W .modinv a m
    (r.err = 2#4 ↔ a = 1 ∧ m = 0) ∧
    (r.err = 2#4 → r.noinv = false ∧ r.resG.word = 1#32 ∧ r.resX = 1#32 ∧ r.resY = 0#32 ∧ r.iters = 0#32)

/-- 43_modinv.md R144: modulo 1 the triple is (1, 0, 1) for every `a`, and MODINV answers 0, which is no inverse in the
glossary's sense: no `x` has `(a*x) mod 1 = 1`. -/
def Obligations.InverseModuloOneIsZero : Prop :=
  ∀ (W : Nat) (a : Int),
    fmod a 1 = 0 ∧ extendedEuclid a 1 = (1, 0, 1) ∧ (commandResults W .modinv a 1).noinv = false ∧
    normalize 0 1 = 0 ∧ (commandResults W .modinv a 1).resInv = 0#32 ∧ ∀ x : Int, fmod (a * x) 1 ≠ 1

/-- 43_modinv.md R145: for a negative modulus `g <= -1`, and MODINV reports NOINV; with the example. -/
def Obligations.NegativeModulusHasNoInverse : Prop :=
  (∀ (W : Nat) (a m : Int), m < 0 →
    (extendedEuclid a m).1 ≤ -1 ∧ (commandResults W .modinv a m).noinv = true) ∧
  gcdN 5 (-27) = 1 ∧ extendedEuclid 5 (-27) = (-1, -11, -2)

/-- 43_modinv.md R146: the system modulus 27. -/
def Obligations.InverseModulo27 : Prop :=
  ∀ (p : Params) (a : Int), p.wf = true → InRange p.W a → InRange p.W 27 →
    let r := commandResults p.W .modinv a 27
    (r.noinv = false → r.resInv.toNat ≤ 26 ∧ fmod (a * r.resInv.toNat) 27 = 1) ∧
    (r.noinv = true ↔ gcdN a 27 ≠ 1) ∧ (r.noinv = true ↔ (3 : Int) ∣ a)

/-- 43_modinv.md R147: for m = 27, the gcd check and the inverse check agree; for a modulus `m <= 0` they do not. -/
def Obligations.KeyChecksAgreeModulo27 : Prop :=
  (∀ (p : Params) (a : Int), p.wf = true → InRange p.W a → InRange p.W 27 →
    ((commandResults p.W .gcd a 27).resG.word = 1#32 ↔ (commandResults p.W .modinv a 27).noinv = false)) ∧
  (commandResults 32 .gcd 5 (-27)).resG.word = 1#32 ∧ (commandResults 32 .modinv 5 (-27)).noinv = true ∧
  (commandResults 32 .gcd (-1) 0).resG.word = 1#32 ∧ (commandResults 32 .modinv (-1) 0).noinv = true

/-! ### Reset, hazards, schedule -/

/-- 70_reset_and_hazards.md R180: a reset, at any time, leaves every field at its reset value (the parameters apart),
abandons a running command, ignores a transaction presented in its cycle (`err = 0`, `rdata = 0`), and leaves every legal
read returning 0. -/
def Obligations.ResetClearsEverything : Prop :=
  (∀ (s : State) (req : Bool) (rest : List Event), s.inputs = .reset req :: rest →
    ∃ t, step s = .next t ∧
      t.op = 0#3 ∧ t.done = false ∧ t.noinv = false ∧ t.ovr = false ∧ t.err = 0#4 ∧ t.busy = false ∧
      t.opa = 0#32 ∧ t.opb = 0#32 ∧ t.resG.word = 0#32 ∧ t.resX = 0#32 ∧ t.resY = 0#32 ∧ t.resInv = 0#32 ∧
      t.iters = 0#32 ∧ t.fsm = .idle ∧
      t.wk = { op := .gcd, a := 0, b := 0, r0 := 0, r1 := 0, s0 := 0, s1 := 0, t0 := 0, t1 := 0, k := 0#7 } ∧
      t.params = s.params ∧ t.inputs = rest ∧
      (req = true → t.resp.err = false ∧ t.resp.rdata = some 0#32) ∧
      ∀ r, readReg t r = 0#32) ∧
  (∀ r, readReg State.reset r = 0#32) ∧ State.reset.fsm = .idle ∧ State.reset.wk = Working.reset

/-- 70_reset_and_hazards.md R189: where a transaction falls in the clock cycle of the completion, it takes effect first: a
STATUS read sees BUSY = 1, and a CLR cannot clear the DONE that the completion sets; so at the clock edge, and so in the
model's events of that cycle. -/
def Obligations.TransactionPrecedesCompletionInACycle : Prop :=
  ∀ (s : State) (rest : List Event) (p : PinsIn), s.fsm = .run → s.wk.r1 = 0 →
    p.rst = false → p.req = true → p.size = 2#2 →
    s.inputs = cycle p s ++ rest →
    (p.we = false → p.addr = 0x04#6 →
      (∃ w, (outputs p s).rdata = some w ∧ w.getLsbD 0 = true) ∧ (clockEdge p s).fsm = .idle ∧
      ∃ t w, Host.Core.run Sys2Proof.core 2 s = .next t ∧ t.fsm = .idle ∧ t.inputs = rest ∧
        t.resp = .readData w ∧ w.getLsbD 0 = true) ∧
    (p.we = true → p.addr = 0x00#6 → p.wdata = 0x00000002#32 →
      (clockEdge p s).fsm = .idle ∧ (clockEdge p s).done = true ∧
      ∃ t, Host.Core.run Sys2Proof.core 2 s = .next t ∧ t.fsm = .idle ∧ t.inputs = rest ∧ t.done = true)

/-- 20_memory.md R51: in every clock cycle `busy` and `done` are the STATUS bits; `rdata` and `err` answer the transaction
presented in this cycle, and where none is presented there is no read data and no error. A legal transaction completes in its
cycle. In a cycle with `rst` high, a transaction is answered with `err = 0` and `rdata = 0` (70_reset_and_hazards.md R180). -/
def Obligations.PortsAnswerInTheirCycle : Prop :=
  ∀ (p : PinsIn) (s : State),
    let isLegal := legal p.we p.size p.addr
    (outputs p s).busy = (statusWord s).getLsbD 0 ∧ (outputs p s).done = (statusWord s).getLsbD 1 ∧
    (p.req = false → (outputs p s).rdata = none ∧ (outputs p s).err = false) ∧
    (p.req = true → p.rst = true → (outputs p s).rdata = some 0#32 ∧ (outputs p s).err = false) ∧
    (p.req = true → p.rst = false →
      (outputs p s).err = !isLegal ∧
      (∀ w, (outputs p s).rdata = some w ↔
        p.we = false ∧ isLegal = true ∧ ∃ r : Reg, r.offset = p.addr ∧ w = readReg s r) ∧
      (isLegal = true → ∃ i, decode p.word = .instr i ∧ exec i s = .next (afterTransaction p s)) ∧
      (isLegal = false → afterTransaction p s = { s with resp := .busError }))

/-- 70_reset_and_hazards.md R189, R180: a clock cycle of the hardware is one of the interleavings the model admits. Run on the
events of the cycle, the model is in the state that the clock edge leaves; or it has stopped at a bus error that it faults
(log entry 5) and that the hardware goes on from, and the fault carries the block before the engine's step of that edge. -/
def Obligations.ClockCycleIsARunOfEvents : Prop :=
  ∀ (s : State) (p : PinsIn) (rest : List Event), s.inputs = cycle p s ++ rest →
    let after : State := { clockEdge p s with inputs := rest }
    Host.Core.run Sys2Proof.core (cycle p s).length s = .next after ∨
    (p.rst = false ∧ p.req = true ∧ legal p.we p.size p.addr = false ∧
      ∃ c u, Host.Core.run Sys2Proof.core (cycle p s).length s = .fault (.busError p.addr c u) ∧
        after = { (if s.fsm = .run then engineStep u else u) with inputs := rest })

/-- 70_reset_and_hazards.md R188, of the ports (no rule of the transaction-level model depends on it): an accepted START
written in cycle `t` has one engine step in each of the next `n + 1` cycles, where `n` is ITERS, at most 62 with W = 32; it
runs until the end of cycle `t + n + 1`, whatever is presented meanwhile but a reset, and its results are then there. An
illegal command is rejected in the cycle of its CTRL write. -/
def Obligations.CommandTakesItersPlusOneClocks : Prop :=
  ∀ (s : State) (p : PinsIn) (i : Instr) (op : BitVec 3) (clr : Bool), s.Inv → s.fsm = .idle →
    p.rst = false → p.req = true → decode p.word = .instr i → i.Starts op clr →
    (∀ c, commandOf op = some c →
      let a := sint s.params.W s.opa
      let b := sint s.params.W s.opb
      let n := divisions a b
      n ≤ 2 * s.params.W - 2 ∧
      ∀ ps : List PinsIn, (∀ q ∈ ps, q.rst = false) →
        (ps.length ≤ n → (clockEdges (p :: ps) s).fsm = .run) ∧
        (ps.length = n + 1 →
          let t := clockEdges (p :: ps) s
          t.fsm = .idle ∧ t.done = true ∧ t.iters.toNat = n ∧ t.results = commandResults s.params.W c a b)) ∧
    (commandOf op = none →
      (clockEdge p s).fsm = .idle ∧ (clockEdge p s).done = true ∧ (clockEdge p s).err = 1#4)

/-- 20_memory.md R62, 70_reset_and_hazards.md R190: `wait` ends after finitely many steps, having read BUSY = 0; if a
command was running, every result register then holds that command's results. The bound is one of the model's own loop, which
gives the engine one step between two polls (log entry 12). -/
def Obligations.WaitEndsWithTheResults : Prop :=
  ∀ (s : State) (rest : List Event), s.Inv → s.inputs = .wait :: rest →
    ∃ n t w, n ≤ 4 * s.params.W - 1 ∧ Host.Core.run Sys2Proof.core n s = .next t ∧ t.inputs = rest ∧
      t.fsm = .idle ∧ t.resp = .readData w ∧ w.getLsbD 0 = false ∧
      (s.fsm = .run → t.results = commandResults s.params.W s.wk.op s.wk.a s.wk.b)

/-- The invariant holds in the reset state, with the default parameters and with any legal ones. -/
def Obligations.InvariantAtReset : Prop :=
  State.reset.Inv ∧ ∀ p : Params, p.wf = true → (State.resetWith p).Inv

/-- The invariant of a legal state is kept by every step, whatever the outside world does: legal parameters, W stored
operand bits (10_state.md R28), flags that go together (R25, R27), results in their ranges (R29; 40_engine.md R97, R98), and in
RUN, DONE, NOINV and ERR 0 (40_engine.md R100) and working registers that the command reaches. -/
def Obligations.InvariantIsKept : Prop :=
  ∀ s t : State, s.Inv → step s = .next t → t.Inv ∧ t.params = s.params

/-! ### The host's side -/

/-- 00_scope.md R4: a call of a source function with an integer outside `[INT_MIN, INT_MAX]` is refused; otherwise the host
writes operand words whose W-bit values are the integers, starts the command, and waits. -/
def Obligations.SourceCallRefusesWideIntegers : Prop :=
  ∀ (s : State) (c : Command) (a b : Int), s.params.wf = true →
    (¬ InRange s.params.W a → sourceCall c a b s = .refused (.operandOutOfRange a)) ∧
    (InRange s.params.W a → ¬ InRange s.params.W b → sourceCall c a b s = .refused (.operandOutOfRange b)) ∧
    (InRange s.params.W a → InRange s.params.W b →
      ∃ t u, sourceCall c a b s = .next t ∧ Host.Core.run Sys2Proof.core 3 t = .next u ∧
        (s.fsm = .idle → u.fsm = .run ∧ u.wk.op = c ∧ u.wk.a = a ∧ u.wk.b = b ∧ u.inputs = .wait :: s.inputs))

/-- 30_encoding.md R78: the pseudo-instructions expand to the transaction words of 95_test_vectors.md, program P1, and the raw
forms carry their size. -/
def Obligations.PseudoInstructionsExpand : Prop :=
  ∀ base : Nat,
    (Stmt.modinv 5 27).expand base =
      [0x18800000005#41, 0x18C0000001B#41, 0x18000000201#41].map (fun t => .host (.ofTransaction base t)) ∧
    (Stmt.gcd 9 27).expand base =
      [0x18800000009#41, 0x18C0000001B#41, 0x18000000001#41].map (fun t => .host (.ofTransaction base t)) ∧
    (Stmt.egcd 240 46).expand base =
      [0x188000000F0#41, 0x18C0000002E#41, 0x18000000101#41].map (fun t => .host (.ofTransaction base t)) ∧
    (Stmt.start 3#3).expand base = [.host (.ofTransaction base 0x18000000301#41)] ∧
    Stmt.clr.expand base = [.host (.ofTransaction base 0x18000000002#41)] ∧
    (Stmt.rd .resInv).expand base = [.host (.ofTransaction base 0x09C00000000#41)] ∧
    (Stmt.wrAt 0#2 0x08#6 7).expand base = [.host (.ofTransaction base 0x10800000007#41)] ∧
    (Stmt.rdAt 1#2 0x04#6).expand base = [.host (.ofTransaction base 0x04400000000#41)]
end

