-- ==== Sys2Proof/Laws/Decode.lean ====
section
/-! SUPPORT. The fields of a packed transaction word, of a command word, and what the decoder does with them. -/

namespace Sys2Proof

/-- The bits of a packed transaction word. -/
theorem packT_getLsbD (we : Bool) (size : BitVec 2) (off : Offset) (d : Word) (i : Nat) :
    (packT we size off d).getLsbD i =
      if i < 32 then d.getLsbD i
      else if i - 32 < 6 then off.getLsbD (i - 32)
      else if i - 32 - 6 < 2 then size.getLsbD (i - 32 - 6)
      else (decide (i - 32 - 6 - 2 = 0) && we) := by
  simp only [packT, BitVec.getLsbD_append, BitVec.getLsbD_ofBool]

theorem packT_we (we : Bool) (size : BitVec 2) (off : Offset) (d : Word) :
    (packT we size off d).getLsbD 40 = we := by
  simp only [packT_getLsbD]; simp

theorem packT_size (we : Bool) (size : BitVec 2) (off : Offset) (d : Word) :
    (packT we size off d).extractLsb' 38 2 = size := by
  apply BitVec.eq_of_getLsbD_eq
  intro i hi
  have : i = 0 ∨ i = 1 := by omega
  rcases this with rfl | rfl <;> simp only [BitVec.getLsbD_extractLsb', packT_getLsbD] <;> simp

theorem packT_off (we : Bool) (size : BitVec 2) (off : Offset) (d : Word) :
    (packT we size off d).extractLsb' 32 6 = off := by
  apply BitVec.eq_of_getLsbD_eq
  intro i hi
  simp only [BitVec.getLsbD_extractLsb', packT_getLsbD]
  simp [hi]

theorem packT_data (we : Bool) (size : BitVec 2) (off : Offset) (d : Word) :
    (packT we size off d).extractLsb' 0 32 = d := by
  apply BitVec.eq_of_getLsbD_eq
  intro i hi
  simp only [BitVec.getLsbD_extractLsb', packT_getLsbD]
  simp [hi]

/-- A transaction word is determined by its fields. -/
theorem packT_of_fields (t : TWord) :
    packT (t.getLsbD 40) (t.extractLsb' 38 2) (t.extractLsb' 32 6) (t.extractLsb' 0 32) = t := by
  apply BitVec.eq_of_getLsbD_eq
  intro i hi
  simp only [packT_getLsbD, BitVec.getLsbD_extractLsb']
  by_cases h1 : i < 32
  · simp [h1]
  · by_cases h2 : i - 32 < 6
    · simp [h1, h2, show 32 + (i - 32) = i by omega]
    · by_cases h3 : i - 32 - 6 < 2
      · simp [h1, h2, h3, show 38 + (i - 32 - 6) = i by omega]
      · have : i = 40 := by omega
        subst this
        simp

/-- Decoding a packed word reads its fields. -/
theorem decode_packT (we : Bool) (size : BitVec 2) (off : Offset) (d : Word) :
    decode (packT we size off d) = decodeFields we size off d := by
  rw [decode, packT_we, packT_size, packT_off, packT_data]

theorem commandWord_start (op : BitVec 3) (clr start : Bool) :
    (commandWord op clr start).getLsbD 0 = start := by
  revert op clr start; decide

theorem commandWord_clr (op : BitVec 3) (clr start : Bool) :
    (commandWord op clr start).getLsbD 1 = clr := by
  revert op clr start; decide

theorem commandWord_op (op : BitVec 3) (clr start : Bool) :
    (commandWord op clr start).extractLsb' 8 3 = op := by
  revert op clr start; decide

/-- Decoding a command word reads its fields. -/
theorem decodeCommand_commandWord (op : BitVec 3) (clr start : Bool) :
    decodeCommand (commandWord op clr start) = if start then startOf op clr else .ctrl op clr := by
  simp only [decodeCommand, commandWord_start, commandWord_clr, commandWord_op]

/-- A transaction decodes to an instruction exactly where it is legal (20_memory.md R52, 30_encoding.md R79). -/
theorem legal_of_decodeFields {we : Bool} {size : BitVec 2} {off : Offset} {d : Word} {i : Instr}
    (h : decodeFields we size off d = .instr i) : legal we size off = true := by
  unfold decodeFields at h
  split at h
  · assumption
  · cases h

end Sys2Proof
end

