-- ==== Sys2Proof/Laws/Operands.lean ====
section
/-! SUPPORT. What the number primitives compute, in library terms. -/

namespace Sys2Proof.Machine

theorem fmod_eq (a b : Int) : fmod a b = Int.fmod a b := by
  have := Int.mul_fdiv_add_fmod a b
  simp only [fmod, fdiv]
  omega

theorem lowBits_toNat {W : Nat} (hW : W ≤ 32) (v : Word) : (lowBits W v).toNat = v.toNat % 2 ^ W := by
  have h : v.toNat % 2 ^ W < 2 ^ W := Nat.mod_lt _ (by positivity)
  have h' : 2 ^ W ≤ 2 ^ 32 := Nat.pow_le_pow_right (by norm_num) hW
  rw [lowBits, BitVec.toNat_ofNat, Nat.mod_eq_of_lt (by omega)]

theorem bits_toNat {W : Nat} (hW : W ≤ 32) (i : Int) : ((bits W i).toNat : Int) = i % 2 ^ W := by
  have h0 : 0 ≤ i % 2 ^ W := Int.emod_nonneg _ (by positivity)
  have h1 : i % 2 ^ W < 2 ^ W := Int.emod_lt_of_pos _ (by positivity)
  have h2 : (2 : Int) ^ W ≤ 2 ^ 32 := pow_le_pow_right₀ (by norm_num) hW
  rw [bits, BitVec.toNat_ofNat, Nat.mod_eq_of_lt (by omega)]
  omega

/-- A signed result is the 32-bit pattern of the value its low W bits denote. -/
theorem signedResult_eq {W : Nat} (hW : W ≤ 32) (i : Int) :
    signedResult W i = BitVec.ofInt 32 (Int.bmod i (2 ^ W)) := by
  have h : ((2 ^ W : Nat) : Int) = 2 ^ W := by push_cast; rfl
  rw [signedResult, sext32, sint, bits_toNat hW, ← h, Int.emod_bmod]

end Sys2Proof.Machine
end

