-- ==== Sys2Proof/Laws/State.lean ====
section
/-! SUPPORT. One lemma per field of State and per update of it: what the update leaves in the field. -/

namespace Sys2Proof.Machine

variable (s : State)

@[simp] theorem State.withInputs_params (v : List Event) : (s.withInputs v).params = s.params := rfl
@[simp] theorem State.withInputs_op (v : List Event) : (s.withInputs v).op = s.op := rfl
@[simp] theorem State.withInputs_done (v : List Event) : (s.withInputs v).done = s.done := rfl
@[simp] theorem State.withInputs_noinv (v : List Event) : (s.withInputs v).noinv = s.noinv := rfl
@[simp] theorem State.withInputs_ovr (v : List Event) : (s.withInputs v).ovr = s.ovr := rfl
@[simp] theorem State.withInputs_err (v : List Event) : (s.withInputs v).err = s.err := rfl
@[simp] theorem State.withInputs_opa (v : List Event) : (s.withInputs v).opa = s.opa := rfl
@[simp] theorem State.withInputs_opb (v : List Event) : (s.withInputs v).opb = s.opb := rfl
@[simp] theorem State.withInputs_resG (v : List Event) : (s.withInputs v).resG = s.resG := rfl
@[simp] theorem State.withInputs_resX (v : List Event) : (s.withInputs v).resX = s.resX := rfl
@[simp] theorem State.withInputs_resY (v : List Event) : (s.withInputs v).resY = s.resY := rfl
@[simp] theorem State.withInputs_resInv (v : List Event) : (s.withInputs v).resInv = s.resInv := rfl
@[simp] theorem State.withInputs_iters (v : List Event) : (s.withInputs v).iters = s.iters := rfl
@[simp] theorem State.withInputs_fsm (v : List Event) : (s.withInputs v).fsm = s.fsm := rfl
@[simp] theorem State.withInputs_wk (v : List Event) : (s.withInputs v).wk = s.wk := rfl
@[simp] theorem State.withInputs_inputs (v : List Event) : (s.withInputs v).inputs = v := rfl
@[simp] theorem State.withInputs_resp (v : List Event) : (s.withInputs v).resp = s.resp := rfl

@[simp] theorem State.withResp_params (v : Response) : (s.withResp v).params = s.params := rfl
@[simp] theorem State.withResp_op (v : Response) : (s.withResp v).op = s.op := rfl
@[simp] theorem State.withResp_done (v : Response) : (s.withResp v).done = s.done := rfl
@[simp] theorem State.withResp_noinv (v : Response) : (s.withResp v).noinv = s.noinv := rfl
@[simp] theorem State.withResp_ovr (v : Response) : (s.withResp v).ovr = s.ovr := rfl
@[simp] theorem State.withResp_err (v : Response) : (s.withResp v).err = s.err := rfl
@[simp] theorem State.withResp_opa (v : Response) : (s.withResp v).opa = s.opa := rfl
@[simp] theorem State.withResp_opb (v : Response) : (s.withResp v).opb = s.opb := rfl
@[simp] theorem State.withResp_resG (v : Response) : (s.withResp v).resG = s.resG := rfl
@[simp] theorem State.withResp_resX (v : Response) : (s.withResp v).resX = s.resX := rfl
@[simp] theorem State.withResp_resY (v : Response) : (s.withResp v).resY = s.resY := rfl
@[simp] theorem State.withResp_resInv (v : Response) : (s.withResp v).resInv = s.resInv := rfl
@[simp] theorem State.withResp_iters (v : Response) : (s.withResp v).iters = s.iters := rfl
@[simp] theorem State.withResp_fsm (v : Response) : (s.withResp v).fsm = s.fsm := rfl
@[simp] theorem State.withResp_wk (v : Response) : (s.withResp v).wk = s.wk := rfl
@[simp] theorem State.withResp_inputs (v : Response) : (s.withResp v).inputs = s.inputs := rfl
@[simp] theorem State.withResp_resp (v : Response) : (s.withResp v).resp = v := rfl

@[simp] theorem State.withOp_params (v : BitVec 3) : (s.withOp v).params = s.params := rfl
@[simp] theorem State.withOp_op (v : BitVec 3) : (s.withOp v).op = v := rfl
@[simp] theorem State.withOp_done (v : BitVec 3) : (s.withOp v).done = s.done := rfl
@[simp] theorem State.withOp_noinv (v : BitVec 3) : (s.withOp v).noinv = s.noinv := rfl
@[simp] theorem State.withOp_ovr (v : BitVec 3) : (s.withOp v).ovr = s.ovr := rfl
@[simp] theorem State.withOp_err (v : BitVec 3) : (s.withOp v).err = s.err := rfl
@[simp] theorem State.withOp_opa (v : BitVec 3) : (s.withOp v).opa = s.opa := rfl
@[simp] theorem State.withOp_opb (v : BitVec 3) : (s.withOp v).opb = s.opb := rfl
@[simp] theorem State.withOp_resG (v : BitVec 3) : (s.withOp v).resG = s.resG := rfl
@[simp] theorem State.withOp_resX (v : BitVec 3) : (s.withOp v).resX = s.resX := rfl
@[simp] theorem State.withOp_resY (v : BitVec 3) : (s.withOp v).resY = s.resY := rfl
@[simp] theorem State.withOp_resInv (v : BitVec 3) : (s.withOp v).resInv = s.resInv := rfl
@[simp] theorem State.withOp_iters (v : BitVec 3) : (s.withOp v).iters = s.iters := rfl
@[simp] theorem State.withOp_fsm (v : BitVec 3) : (s.withOp v).fsm = s.fsm := rfl
@[simp] theorem State.withOp_wk (v : BitVec 3) : (s.withOp v).wk = s.wk := rfl
@[simp] theorem State.withOp_inputs (v : BitVec 3) : (s.withOp v).inputs = s.inputs := rfl
@[simp] theorem State.withOp_resp (v : BitVec 3) : (s.withOp v).resp = s.resp := rfl

@[simp] theorem State.withOvr_params (v : Bool) : (s.withOvr v).params = s.params := rfl
@[simp] theorem State.withOvr_op (v : Bool) : (s.withOvr v).op = s.op := rfl
@[simp] theorem State.withOvr_done (v : Bool) : (s.withOvr v).done = s.done := rfl
@[simp] theorem State.withOvr_noinv (v : Bool) : (s.withOvr v).noinv = s.noinv := rfl
@[simp] theorem State.withOvr_ovr (v : Bool) : (s.withOvr v).ovr = v := rfl
@[simp] theorem State.withOvr_err (v : Bool) : (s.withOvr v).err = s.err := rfl
@[simp] theorem State.withOvr_opa (v : Bool) : (s.withOvr v).opa = s.opa := rfl
@[simp] theorem State.withOvr_opb (v : Bool) : (s.withOvr v).opb = s.opb := rfl
@[simp] theorem State.withOvr_resG (v : Bool) : (s.withOvr v).resG = s.resG := rfl
@[simp] theorem State.withOvr_resX (v : Bool) : (s.withOvr v).resX = s.resX := rfl
@[simp] theorem State.withOvr_resY (v : Bool) : (s.withOvr v).resY = s.resY := rfl
@[simp] theorem State.withOvr_resInv (v : Bool) : (s.withOvr v).resInv = s.resInv := rfl
@[simp] theorem State.withOvr_iters (v : Bool) : (s.withOvr v).iters = s.iters := rfl
@[simp] theorem State.withOvr_fsm (v : Bool) : (s.withOvr v).fsm = s.fsm := rfl
@[simp] theorem State.withOvr_wk (v : Bool) : (s.withOvr v).wk = s.wk := rfl
@[simp] theorem State.withOvr_inputs (v : Bool) : (s.withOvr v).inputs = s.inputs := rfl
@[simp] theorem State.withOvr_resp (v : Bool) : (s.withOvr v).resp = s.resp := rfl

@[simp] theorem State.withOpa_params (v : Word) : (s.withOpa v).params = s.params := rfl
@[simp] theorem State.withOpa_op (v : Word) : (s.withOpa v).op = s.op := rfl
@[simp] theorem State.withOpa_done (v : Word) : (s.withOpa v).done = s.done := rfl
@[simp] theorem State.withOpa_noinv (v : Word) : (s.withOpa v).noinv = s.noinv := rfl
@[simp] theorem State.withOpa_ovr (v : Word) : (s.withOpa v).ovr = s.ovr := rfl
@[simp] theorem State.withOpa_err (v : Word) : (s.withOpa v).err = s.err := rfl
@[simp] theorem State.withOpa_opa (v : Word) : (s.withOpa v).opa = v := rfl
@[simp] theorem State.withOpa_opb (v : Word) : (s.withOpa v).opb = s.opb := rfl
@[simp] theorem State.withOpa_resG (v : Word) : (s.withOpa v).resG = s.resG := rfl
@[simp] theorem State.withOpa_resX (v : Word) : (s.withOpa v).resX = s.resX := rfl
@[simp] theorem State.withOpa_resY (v : Word) : (s.withOpa v).resY = s.resY := rfl
@[simp] theorem State.withOpa_resInv (v : Word) : (s.withOpa v).resInv = s.resInv := rfl
@[simp] theorem State.withOpa_iters (v : Word) : (s.withOpa v).iters = s.iters := rfl
@[simp] theorem State.withOpa_fsm (v : Word) : (s.withOpa v).fsm = s.fsm := rfl
@[simp] theorem State.withOpa_wk (v : Word) : (s.withOpa v).wk = s.wk := rfl
@[simp] theorem State.withOpa_inputs (v : Word) : (s.withOpa v).inputs = s.inputs := rfl
@[simp] theorem State.withOpa_resp (v : Word) : (s.withOpa v).resp = s.resp := rfl

@[simp] theorem State.withOpb_params (v : Word) : (s.withOpb v).params = s.params := rfl
@[simp] theorem State.withOpb_op (v : Word) : (s.withOpb v).op = s.op := rfl
@[simp] theorem State.withOpb_done (v : Word) : (s.withOpb v).done = s.done := rfl
@[simp] theorem State.withOpb_noinv (v : Word) : (s.withOpb v).noinv = s.noinv := rfl
@[simp] theorem State.withOpb_ovr (v : Word) : (s.withOpb v).ovr = s.ovr := rfl
@[simp] theorem State.withOpb_err (v : Word) : (s.withOpb v).err = s.err := rfl
@[simp] theorem State.withOpb_opa (v : Word) : (s.withOpb v).opa = s.opa := rfl
@[simp] theorem State.withOpb_opb (v : Word) : (s.withOpb v).opb = v := rfl
@[simp] theorem State.withOpb_resG (v : Word) : (s.withOpb v).resG = s.resG := rfl
@[simp] theorem State.withOpb_resX (v : Word) : (s.withOpb v).resX = s.resX := rfl
@[simp] theorem State.withOpb_resY (v : Word) : (s.withOpb v).resY = s.resY := rfl
@[simp] theorem State.withOpb_resInv (v : Word) : (s.withOpb v).resInv = s.resInv := rfl
@[simp] theorem State.withOpb_iters (v : Word) : (s.withOpb v).iters = s.iters := rfl
@[simp] theorem State.withOpb_fsm (v : Word) : (s.withOpb v).fsm = s.fsm := rfl
@[simp] theorem State.withOpb_wk (v : Word) : (s.withOpb v).wk = s.wk := rfl
@[simp] theorem State.withOpb_inputs (v : Word) : (s.withOpb v).inputs = s.inputs := rfl
@[simp] theorem State.withOpb_resp (v : Word) : (s.withOpb v).resp = s.resp := rfl

@[simp] theorem State.withWk_params (v : Working) : (s.withWk v).params = s.params := rfl
@[simp] theorem State.withWk_op (v : Working) : (s.withWk v).op = s.op := rfl
@[simp] theorem State.withWk_done (v : Working) : (s.withWk v).done = s.done := rfl
@[simp] theorem State.withWk_noinv (v : Working) : (s.withWk v).noinv = s.noinv := rfl
@[simp] theorem State.withWk_ovr (v : Working) : (s.withWk v).ovr = s.ovr := rfl
@[simp] theorem State.withWk_err (v : Working) : (s.withWk v).err = s.err := rfl
@[simp] theorem State.withWk_opa (v : Working) : (s.withWk v).opa = s.opa := rfl
@[simp] theorem State.withWk_opb (v : Working) : (s.withWk v).opb = s.opb := rfl
@[simp] theorem State.withWk_resG (v : Working) : (s.withWk v).resG = s.resG := rfl
@[simp] theorem State.withWk_resX (v : Working) : (s.withWk v).resX = s.resX := rfl
@[simp] theorem State.withWk_resY (v : Working) : (s.withWk v).resY = s.resY := rfl
@[simp] theorem State.withWk_resInv (v : Working) : (s.withWk v).resInv = s.resInv := rfl
@[simp] theorem State.withWk_iters (v : Working) : (s.withWk v).iters = s.iters := rfl
@[simp] theorem State.withWk_fsm (v : Working) : (s.withWk v).fsm = s.fsm := rfl
@[simp] theorem State.withWk_wk (v : Working) : (s.withWk v).wk = v := rfl
@[simp] theorem State.withWk_inputs (v : Working) : (s.withWk v).inputs = s.inputs := rfl
@[simp] theorem State.withWk_resp (v : Working) : (s.withWk v).resp = s.resp := rfl

@[simp] theorem State.withInputs_self : s.withInputs s.inputs = s := rfl

/-- Two updates of the script: the last one counts. -/
@[simp] theorem State.withInputs_withInputs (l l' : List Event) : (s.withInputs l).withInputs l' = s.withInputs l' := rfl

end Sys2Proof.Machine
end

