-- ==== Sys2Proof/Laws/Engine.lean ====
section
/-! SUPPORT. What the engine's step can do, and what a completion leaves alone. -/

namespace Sys2Proof.Machine

theorem engineStep_idle {s : State} (h : s.fsm = .idle) : engineStep s = s := by
  simp [engineStep, h]

theorem engineStep_iterate {s : State} (h : s.fsm = .run) (h1 : s.wk.r1 ≠ 0) :
    engineStep s = s.withWk (iterate s.wk) := by
  simp [engineStep, h, h1]

theorem engineStep_complete {s : State} (h : s.fsm = .run) (h1 : s.wk.r1 = 0) : engineStep s = complete s := by
  simp [engineStep, h, h1]

/-- Storing the inverse is one of three writes of RES_INV, the first with NOINV, the second with ERR. -/
theorem storeInverse_cases (s : State) :
    (s.wk.r0 ≠ 1 ∧ storeInverse s = { s with noinv := true, resInv := 0#32 }) ∨
    (s.wk.r0 = 1 ∧ s.wk.b = 0 ∧
      storeInverse s = { s with err := errModzero, resInv := Config.modZeroInverse s.wk.s0 s.wk.b }) ∨
    (s.wk.r0 = 1 ∧ s.wk.b ≠ 0 ∧ storeInverse s = { s with resInv := u32 (normalize s.wk.s0 s.wk.b).toNat }) := by
  unfold storeInverse
  by_cases h : s.wk.r0 = 1
  · by_cases hb : s.wk.b = 0
    · exact .inr (.inl ⟨h, hb, by simp [h, hb]⟩)
    · exact .inr (.inr ⟨h, hb, by simp [h, hb]⟩)
  · exact .inl ⟨h, by simp [h]⟩

@[simp] theorem complete_params (s : State) : (complete s).params = s.params := by
  unfold complete commandComplete
  cases s.wk.op with
  | gcd => rfl
  | egcd => rfl
  | modinv =>
    change (storeInverse (storeTriple s)).params = s.params
    rcases storeInverse_cases (storeTriple s) with ⟨_, h⟩ | ⟨_, _, h⟩ | ⟨_, _, h⟩ <;> rw [h] <;> rfl

@[simp] theorem complete_op (s : State) : (complete s).op = s.op := by
  unfold complete commandComplete
  cases s.wk.op with
  | gcd => rfl
  | egcd => rfl
  | modinv =>
    change (storeInverse (storeTriple s)).op = s.op
    rcases storeInverse_cases (storeTriple s) with ⟨_, h⟩ | ⟨_, _, h⟩ | ⟨_, _, h⟩ <;> rw [h] <;> rfl

@[simp] theorem complete_ovr (s : State) : (complete s).ovr = s.ovr := by
  unfold complete commandComplete
  cases s.wk.op with
  | gcd => rfl
  | egcd => rfl
  | modinv =>
    change (storeInverse (storeTriple s)).ovr = s.ovr
    rcases storeInverse_cases (storeTriple s) with ⟨_, h⟩ | ⟨_, _, h⟩ | ⟨_, _, h⟩ <;> rw [h] <;> rfl

@[simp] theorem complete_opa (s : State) : (complete s).opa = s.opa := by
  unfold complete commandComplete
  cases s.wk.op with
  | gcd => rfl
  | egcd => rfl
  | modinv =>
    change (storeInverse (storeTriple s)).opa = s.opa
    rcases storeInverse_cases (storeTriple s) with ⟨_, h⟩ | ⟨_, _, h⟩ | ⟨_, _, h⟩ <;> rw [h] <;> rfl

@[simp] theorem complete_opb (s : State) : (complete s).opb = s.opb := by
  unfold complete commandComplete
  cases s.wk.op with
  | gcd => rfl
  | egcd => rfl
  | modinv =>
    change (storeInverse (storeTriple s)).opb = s.opb
    rcases storeInverse_cases (storeTriple s) with ⟨_, h⟩ | ⟨_, _, h⟩ | ⟨_, _, h⟩ <;> rw [h] <;> rfl

@[simp] theorem complete_wk (s : State) : (complete s).wk = s.wk := by
  unfold complete commandComplete
  cases s.wk.op with
  | gcd => rfl
  | egcd => rfl
  | modinv =>
    change (storeInverse (storeTriple s)).wk = s.wk
    rcases storeInverse_cases (storeTriple s) with ⟨_, h⟩ | ⟨_, _, h⟩ | ⟨_, _, h⟩ <;> rw [h] <;> rfl

@[simp] theorem complete_inputs (s : State) : (complete s).inputs = s.inputs := by
  unfold complete commandComplete
  cases s.wk.op with
  | gcd => rfl
  | egcd => rfl
  | modinv =>
    change (storeInverse (storeTriple s)).inputs = s.inputs
    rcases storeInverse_cases (storeTriple s) with ⟨_, h⟩ | ⟨_, _, h⟩ | ⟨_, _, h⟩ <;> rw [h] <;> rfl

@[simp] theorem complete_resp (s : State) : (complete s).resp = s.resp := by
  unfold complete commandComplete
  cases s.wk.op with
  | gcd => rfl
  | egcd => rfl
  | modinv =>
    change (storeInverse (storeTriple s)).resp = s.resp
    rcases storeInverse_cases (storeTriple s) with ⟨_, h⟩ | ⟨_, _, h⟩ | ⟨_, _, h⟩ <;> rw [h] <;> rfl

@[simp] theorem complete_iters (s : State) : (complete s).iters = u32 s.wk.k.toNat := rfl

@[simp] theorem complete_done (s : State) : (complete s).done = true := rfl

@[simp] theorem complete_fsm (s : State) : (complete s).fsm = .idle := rfl

@[simp] theorem iterate_op (w : Working) : (iterate w).op = w.op := rfl
@[simp] theorem iterate_a (w : Working) : (iterate w).a = w.a := rfl
@[simp] theorem iterate_b (w : Working) : (iterate w).b = w.b := rfl

@[simp] theorem iterateN_op (n : Nat) (w : Working) : (iterateN n w).op = w.op := by
  induction n with
  | zero => rfl
  | succ n ih => exact ih

@[simp] theorem iterateN_a (n : Nat) (w : Working) : (iterateN n w).a = w.a := by
  induction n with
  | zero => rfl
  | succ n ih => exact ih

@[simp] theorem iterateN_b (n : Nat) (w : Working) : (iterateN n w).b = w.b := by
  induction n with
  | zero => rfl
  | succ n ih => exact ih

/-- An iteration keeps the command and the operands, so also where the command started. -/
@[simp] theorem iterate_atStart (w : Working) : (iterate w).atStart = w.atStart := rfl

/-- One more iteration, with a non-zero divisor, is one more step of what is reached. -/
theorem Working.ReachedBy.iterate {w : Working} {n : Nat} (h : w.ReachedBy n) (h1 : w.r1 ≠ 0) :
    (iterate w).ReachedBy (n + 1) := by
  obtain ⟨hw, hd⟩ := h
  refine ⟨?_, fun j hj => ?_⟩
  · rw [iterate_atStart]
    change Machine.iterate w = Machine.iterate (iterateN n w.atStart)
    rw [← hw]
  · rw [iterate_atStart]
    by_cases hjn : j < n
    · exact hd j hjn
    · have : j = n := by omega
      subst this
      rwa [← hw]

/-- The working registers at acceptance are reached by no iteration. -/
theorem startWorking_reachedBy (c : Command) (a b : Int) : (startWorking c a b).ReachedBy 0 :=
  ⟨rfl, fun _ hj => absurd hj (Nat.not_lt_zero _)⟩

end Sys2Proof.Machine
end

