-- ==== Sys2Proof/Laws/Ops.lean ====
section
/-! SUPPORT. For each shared operation over the registers, what it can do. -/

namespace Sys2Proof.Machine

theorem applyClr_eq (clr : Bool) (s : State) :
    applyClr clr s = { s with
      done := !clr && s.done, noinv := !clr && s.noinv, ovr := !clr && s.ovr
      err := if clr then errNone else s.err } := by
  cases clr <;> rfl

/-- START is an overrun in RUN; in IDLE it is an acceptance or the rejection of an illegal command. -/
theorem start_cases (op : BitVec 3) (s : State) :
    (s.fsm = .run ∧ start op s = s.withOvr true) ∨
    (s.fsm = .idle ∧ ∃ c, commandOf op = some c ∧ start op s = accept c s) ∨
    (s.fsm = .idle ∧ commandOf op = none ∧ start op s = rejectIllegal s) := by
  unfold start
  cases h : s.fsm with
  | run => exact .inl ⟨rfl, rfl⟩
  | idle =>
    cases hc : commandOf op with
    | some c => exact .inr (.inl ⟨rfl, c, rfl, rfl⟩)
    | none => exact .inr (.inr ⟨rfl, rfl, rfl⟩)

/-- The legal OPs are 0, 1 and 2. -/
theorem commandOf_isSome (op : BitVec 3) : (commandOf op).isSome = true ↔ op.toNat < 3 := by
  revert op; decide

/-- A CTRL write runs `ctrlWrite` on its fields. -/
theorem exec_ctrlFields {i : Instr} {op : BitVec 3} {clr startBit : Bool}
    (h : i.ctrlFields = some (op, clr, startBit)) (s : State) :
    exec i s = answerWrite (ctrlWrite op clr startBit s) := by
  cases i <;> simp only [Instr.ctrlFields, Option.some.injEq, Prod.mk.injEq, reduceCtorEq] at h <;>
    obtain ⟨rfl, rfl, rfl⟩ := h <;> rfl

/-- An instruction that is no CTRL write writes an operand or reads a register. -/
theorem exec_of_not_ctrl {i : Instr} (h : i.ctrlFields = none) (s : State) :
    (∃ d, i = .wrOpa d ∧ exec i s = answerWrite (s.withOpa (lowBits s.params.W d))) ∨
    (∃ d, i = .wrOpb d ∧ exec i s = answerWrite (s.withOpb (lowBits s.params.W d))) ∨
    (∃ r, i = readOf r ∧ exec i s = answerRead r s) := by
  cases i with
  | wrOpa d => exact .inl ⟨d, rfl, rfl⟩
  | wrOpb d => exact .inr (.inl ⟨d, rfl, rfl⟩)
  | rdCtrl => exact .inr (.inr ⟨.ctrl, rfl, rfl⟩)
  | rdStatus => exact .inr (.inr ⟨.status, rfl, rfl⟩)
  | rdOpa => exact .inr (.inr ⟨.opa, rfl, rfl⟩)
  | rdOpb => exact .inr (.inr ⟨.opb, rfl, rfl⟩)
  | rdResG => exact .inr (.inr ⟨.resG, rfl, rfl⟩)
  | rdResX => exact .inr (.inr ⟨.resX, rfl, rfl⟩)
  | rdResY => exact .inr (.inr ⟨.resY, rfl, rfl⟩)
  | rdResInv => exact .inr (.inr ⟨.resInv, rfl, rfl⟩)
  | rdIters => exact .inr (.inr ⟨.iters, rfl, rfl⟩)
  | _ => simp [Instr.ctrlFields] at h

/-- An instruction leaves the parameters and the script of the outside world alone. -/
theorem exec_params_inputs {i : Instr} {s t : State} (h : exec i s = .next t) :
    t.params = s.params ∧ t.inputs = s.inputs := by
  cases hc : i.ctrlFields with
  | some f =>
    obtain ⟨op, clr, startBit⟩ := f
    rw [exec_ctrlFields hc] at h
    injection h with h
    subst h
    cases startBit with
    | false => cases clr <;> exact ⟨rfl, rfl⟩
    | true =>
      change (start op _).params = _ ∧ (start op _).inputs = _
      rcases start_cases op (applyClr clr (s.withOp op)) with ⟨-, h⟩ | ⟨-, _, -, h⟩ | ⟨-, -, h⟩ <;> rw [h] <;>
        cases clr <;> exact ⟨rfl, rfl⟩
  | none =>
    rcases exec_of_not_ctrl hc s with ⟨_, _, he⟩ | ⟨_, _, he⟩ | ⟨_, _, he⟩ <;> rw [he] at h <;>
      injection h with h <;> subst h <;> exact ⟨rfl, rfl⟩

/-- Every instruction answers a next state. -/
theorem exec_next (i : Instr) (s : State) : ∃ t, exec i s = .next t := by
  cases h : i.ctrlFields with
  | some f => exact ⟨_, exec_ctrlFields h s⟩
  | none => rcases exec_of_not_ctrl h s with ⟨_, _, h⟩ | ⟨_, _, h⟩ | ⟨_, _, h⟩ <;> exact ⟨_, h⟩

/-- A bus error changes nothing but the answer, whether the model goes on from it or faults. -/
theorem raiseBusError_cases (we : Bool) (size : BitVec 2) (off : Offset) (cause : BusErrorCause) (s : State) :
    (busErrorFaults we size off = true ∧
      raiseBusError we size off cause s = .fault (.busError off cause (s.withResp .busError))) ∨
    (busErrorFaults we size off = false ∧
      raiseBusError we size off cause s = .next (s.withResp .busError)) := by
  unfold raiseBusError
  cases busErrorFaults we size off
  · exact .inr ⟨rfl, rfl⟩
  · exact .inl ⟨rfl, rfl⟩

end Sys2Proof.Machine
end

