-- ==== Sys2Proof/Laws/PerInstr.lean ====
section
/-! SUPPORT. Per instruction: the encoder's word matches the row of spec/opcode_table.json that the instruction stands for,
and no other row (spec/30_encoding.md R79: "A transaction matches at most one row"). -/

namespace Sys2Proof.Laws.TableRow

/-- The word of `i` matches the row of `i`, and a row of the table that it matches is that one. -/
def Statement (i : Instr) : Prop :=
  i.row.matches (encode i) = true ∧ ∀ r ∈ opcodeTable, r.matches (encode i) = true → r = i.row

theorem gcd (clr : Bool) : Statement (.gcd clr) := by revert clr; unfold Statement; decide
theorem egcd (clr : Bool) : Statement (.egcd clr) := by revert clr; unfold Statement; decide
theorem modinv (clr : Bool) : Statement (.modinv clr) := by revert clr; unfold Statement; decide
theorem illegalOp3 (clr : Bool) : Statement (.illegalOp3 clr) := by revert clr; unfold Statement; decide
theorem illegalOp4 (clr : Bool) : Statement (.illegalOp4 clr) := by revert clr; unfold Statement; decide
theorem illegalOp5 (clr : Bool) : Statement (.illegalOp5 clr) := by revert clr; unfold Statement; decide
theorem illegalOp6 (clr : Bool) : Statement (.illegalOp6 clr) := by revert clr; unfold Statement; decide
theorem illegalOp7 (clr : Bool) : Statement (.illegalOp7 clr) := by revert clr; unfold Statement; decide
theorem ctrl (op : BitVec 3) (clr : Bool) : Statement (.ctrl op clr) := by
  revert op clr; unfold Statement; decide

/-- A mask that reads no data bit cannot tell the data of two words apart. -/
theorem packT_and_mask (m : TWord) (hm : ∀ i < 32, m.getLsbD i = false) (we : Bool) (size : BitVec 2)
    (off : Offset) (d : Word) : packT we size off d &&& m = packT we size off 0#32 &&& m := by
  apply BitVec.eq_of_getLsbD_eq
  intro i hi
  simp only [BitVec.getLsbD_and, packT_getLsbD]
  by_cases h : i < 32
  · simp [hm i h]
  · simp [h]

/-- The mask of we, size and off reads no data bit. -/
theorem upper_low : ∀ i < 32, (0x1FF00000000#41).getLsbD i = false := by decide

/-- What a match says about the bits of we, size and off. -/
theorem and_upper (t p m : TWord) (h : t &&& m = p) : t &&& (m &&& 0x1FF00000000#41) = p &&& 0x1FF00000000#41 := by
  rw [← h, BitVec.and_assoc]

/-- The statement for a write of a register other than CTRL, from its word with data 0. -/
theorem statement_write (i : Instr) (r : Reg) (d : Word) (he : encode i = writeT r d)
    (hrow : i.row.mask = 0x1FF00000000#41)
    (h0 : i.row.matches (writeT r 0#32) = true)
    (hx : ∀ x ∈ opcodeTable, writeT r 0#32 &&& (x.mask &&& 0x1FF00000000#41) = x.pattern &&& 0x1FF00000000#41 →
      x = i.row) : Statement i := by
  refine ⟨?_, fun x hxm hmatch => hx x hxm ?_⟩
  · rw [TableRow.matches, beq_iff_eq, hrow] at *
    rw [he, writeT, packT_and_mask _ upper_low]
    exact h0
  · rw [TableRow.matches, beq_iff_eq, he] at hmatch
    have := and_upper _ _ _ hmatch
    rwa [writeT, packT_and_mask _ (by intro i hi; rw [BitVec.getLsbD_and, upper_low i hi, Bool.and_false])] at this

theorem wrOpa (d : Word) : Statement (.wrOpa d) :=
  statement_write _ .opa d rfl rfl
    (by change (Instr.wrOpa 0#32).row.matches _ = true; decide)
    (by change ∀ x ∈ opcodeTable, _ → x = (Instr.wrOpa 0#32).row; decide)
theorem wrOpb (d : Word) : Statement (.wrOpb d) :=
  statement_write _ .opb d rfl rfl
    (by change (Instr.wrOpb 0#32).row.matches _ = true; decide)
    (by change ∀ x ∈ opcodeTable, _ → x = (Instr.wrOpb 0#32).row; decide)
theorem rdCtrl : Statement .rdCtrl := by unfold Statement; decide
theorem rdStatus : Statement .rdStatus := by unfold Statement; decide
theorem rdOpa : Statement .rdOpa := by unfold Statement; decide
theorem rdOpb : Statement .rdOpb := by unfold Statement; decide
theorem rdResG : Statement .rdResG := by unfold Statement; decide
theorem rdResX : Statement .rdResX := by unfold Statement; decide
theorem rdResY : Statement .rdResY := by unfold Statement; decide
theorem rdResInv : Statement .rdResInv := by unfold Statement; decide
theorem rdIters : Statement .rdIters := by unfold Statement; decide

end Sys2Proof.Laws.TableRow
end

