-- ==== Sys2Proof/Laws/Step.lean ====
section
/-! SUPPORT. What a step can do: the moves, one by one. -/

namespace Sys2Proof.Machine

/-- An access at an offset of the window is at that offset. -/
theorem windowOffset_add (p : Params) (off : Offset) : windowOffset p (p.base + off.toNat) = some off := by
  have h : off.toNat < 64 := off.isLt
  simp [windowOffset, h]

/-- The transaction of the access made from a transaction word is that word. -/
theorem transaction_ofTransaction (base : Nat) (t : TWord) :
    (Access.ofTransaction base t).transaction (t.extractLsb' 32 6) = t :=
  packT_of_fields t

theorem fetch_nil {s : State} (h : s.inputs = []) : fetch s = .settled (.next (engineStep s)) := by
  simp [fetch, h]

theorem fetch_engine {s : State} {rest : List Event} (h : s.inputs = .engine :: rest) :
    fetch s = .settled (.next (engineStep (s.withInputs rest))) := by
  simp [fetch, h]

theorem fetch_reset {s : State} {req : Bool} {rest : List Event} (h : s.inputs = .reset req :: rest) :
    fetch s = .settled (.next (applyReset req (s.withInputs rest))) := by
  simp [fetch, h]

theorem fetch_host {s : State} {a : Access} {rest : List Event} (h : s.inputs = .host a :: rest) :
    fetch s = present a (s.withInputs rest) := by
  simp [fetch, h]

theorem fetch_wait {s : State} {rest : List Event} (h : s.inputs = .wait :: rest) :
    fetch s = .instr .rdStatus (s.withInputs (afterPoll s rest)) := by
  simp [fetch, h]

/-- A presented access is outside the window, a legal transaction, or a bus error. -/
theorem present_cases (a : Access) (s : State) :
    (windowOffset s.params a.addr = none ∧ present a s = .settled (.fault (.outsideWindow a.addr s))) ∨
    (∃ off i, windowOffset s.params a.addr = some off ∧ decodeFields a.we a.size off a.wdata = .instr i ∧
      present a s = .instr i s) ∨
    (∃ off cause, windowOffset s.params a.addr = some off ∧
      decodeFields a.we a.size off a.wdata = .busErr cause ∧
      present a s = .settled (raiseBusError a.we a.size off cause s)) := by
  unfold present
  cases h : windowOffset s.params a.addr with
  | none => exact .inl ⟨rfl, rfl⟩
  | some off =>
    simp only [Access.transaction, decode_packT]
    cases hd : decodeFields a.we a.size off a.wdata with
    | instr i => exact .inr (.inl ⟨off, i, rfl, hd, rfl⟩)
    | busErr cause => exact .inr (.inr ⟨off, cause, rfl, hd, rfl⟩)

/-- A step that answers a next state is the engine's, a reset, an instruction, or a bus error that the model goes on
from. -/
theorem step_cases {s t : State} (h : step s = .next t) :
    (s.EngineMoves ∧ t = engineStep (s.withInputs s.inputs.tail)) ∨
    (∃ req rest, s.inputs = .reset req :: rest ∧ t = applyReset req (s.withInputs rest)) ∨
    (∃ i l, fetch s = .instr i (s.withInputs l) ∧ exec i (s.withInputs l) = .next t) ∨
    (∃ a rest off, s.inputs = .host a :: rest ∧ windowOffset s.params a.addr = some off ∧
      busErrorFaults a.we a.size off = false ∧ t = (s.withInputs rest).withResp .busError) := by
  unfold step at h
  cases hin : s.inputs with
  | nil =>
    rw [fetch_nil hin] at h
    refine .inl ⟨.inl hin, ?_⟩
    injection h with h
    rw [List.tail_nil, ← h, ← hin]
    rfl
  | cons e rest =>
    cases e with
    | engine =>
      rw [fetch_engine hin] at h
      injection h with h
      exact .inl ⟨.inr ⟨rest, hin⟩, h.symm⟩
    | reset req =>
      rw [fetch_reset hin] at h
      injection h with h
      exact .inr (.inl ⟨req, rest, rfl, h.symm⟩)
    | wait =>
      rw [fetch_wait hin] at h
      exact .inr (.inr (.inl ⟨_, _, fetch_wait hin, h⟩))
    | host a =>
      rw [fetch_host hin] at h
      rcases present_cases a (s.withInputs rest) with ⟨-, hp⟩ | ⟨off, i, -, -, hp⟩ | ⟨off, cause, ho, -, hp⟩
      · rw [hp] at h; cases h
      · rw [hp] at h
        exact .inr (.inr (.inl ⟨i, rest, (fetch_host hin).trans hp, h⟩))
      · rw [hp] at h
        rcases raiseBusError_cases a.we a.size off cause (s.withInputs rest) with ⟨-, hb⟩ | ⟨hf, hb⟩
        · rw [hb] at h; cases h
        · rw [hb] at h
          injection h with h
          exact .inr (.inr (.inr ⟨a, rest, off, rfl, ho, hf, h.symm⟩))

end Sys2Proof.Machine
end

