-- ==== Sys2Proof/Laws/Ports.lean ====
section
/-! SUPPORT. What a transaction and a clock edge at the ports can do. -/

namespace Sys2Proof.Machine

/-- A cycle without reset presents nothing, an instruction, whose next state the block then has, or a bus error. -/
theorem afterTransaction_cases (p : PinsIn) (s : State) :
    (p.req = false ∧ afterTransaction p s = s) ∨
    (p.req = true ∧ ∃ i, decode p.word = .instr i ∧ exec i s = .next (afterTransaction p s)) ∨
    (p.req = true ∧ ∃ c, decode p.word = .busErr c ∧ afterTransaction p s = s.withResp .busError) := by
  unfold afterTransaction
  cases hr : p.req with
  | false => exact .inl ⟨rfl, rfl⟩
  | true =>
    have ho : windowOffset s.params (p.access s.params.base).addr = some p.addr := windowOffset_add _ _
    simp only [↓reduceIte, transact]
    rcases present_cases (p.access s.params.base) s with ⟨h, -⟩ | ⟨off, i, h, hd, hp⟩ | ⟨off, c, h, hd, hp⟩
    · rw [ho] at h; cases h
    · obtain rfl : p.addr = off := Option.some.inj (ho.symm.trans h)
      obtain ⟨t, ht⟩ := exec_next i s
      refine .inr (.inl ⟨trivial, i, (decode_packT _ _ _ _).trans hd, ?_⟩)
      rw [hp]
      simp only [ht, blockAfter]
    · obtain rfl : p.addr = off := Option.some.inj (ho.symm.trans h)
      refine .inr (.inr ⟨trivial, c, (decode_packT _ _ _ _).trans hd, ?_⟩)
      rw [hp]
      rcases raiseBusError_cases p.we p.size p.addr c s with ⟨-, hb⟩ | ⟨-, hb⟩ <;>
        simp only [PinsIn.access, hb, blockAfter]

/-- A transaction leaves the parameters and the script of the outside world alone. -/
theorem afterTransaction_params_inputs (p : PinsIn) (s : State) :
    (afterTransaction p s).params = s.params ∧ (afterTransaction p s).inputs = s.inputs := by
  rcases afterTransaction_cases p s with ⟨-, h⟩ | ⟨-, _, -, h⟩ | ⟨-, _, -, h⟩
  · rw [h]; exact ⟨rfl, rfl⟩
  · exact exec_params_inputs h
  · rw [h]; exact ⟨rfl, rfl⟩

theorem answer_of_no_request {p : PinsIn} (h : p.req = false) (s : State) : answer p s = .none := by
  simp [answer, h]

theorem answer_of_request {p : PinsIn} (h : p.req = true) (hr : p.rst = false) (s : State) :
    answer p s = (afterTransaction p s).resp := by
  simp [answer, h, hr]

theorem clockEdge_of_reset {p : PinsIn} (h : p.rst = true) (s : State) : clockEdge p s = applyReset p.req s := by
  simp [clockEdge, h]

theorem clockEdge_of_idle {p : PinsIn} {s : State} (h : p.rst = false) (hs : s.fsm = .idle) :
    clockEdge p s = afterTransaction p s := by
  simp [clockEdge, h, hs]

theorem clockEdge_of_run {p : PinsIn} {s : State} (h : p.rst = false) (hs : s.fsm = .run) :
    clockEdge p s = engineStep (afterTransaction p s) := by
  simp [clockEdge, h, hs]

@[simp] theorem clockEdges_nil (s : State) : clockEdges [] s = s := rfl
@[simp] theorem clockEdges_cons (p : PinsIn) (ps : List PinsIn) (s : State) :
    clockEdges (p :: ps) s = clockEdges ps (clockEdge p s) := rfl

end Sys2Proof.Machine
end

