-- ==== Sys2Proof/Tests/Slice0.lean ====
section
/-! SUPPORT. Tests, their expected results taken from spec/95_test_vectors.md (the vector is named at each) or written out
from the rules, and witnesses: for every statement with hypotheses, a concrete state and operands that meet them. -/

namespace Sys2Proof.Tests

open Sys2Proof.Machine

/-! ### Small states -/

/-- The next state of an outcome, if it has one. -/
def nextOf (o : Host.Outcome State Fault Refusal) : Option State :=
  match o with
  | .next t => some t
  | .fault _ => none
  | .refused _ => none

/-- An idle block, W = 32, with operands. -/
def idleWith (a b : Word) : State := { State.reset with opa := a, opb := b }

/-- A block that runs a command with the given working registers. -/
def runWith (c : Command) (a b r0 r1 s0 s1 t0 t1 : Int) (k : BitVec 7) : State :=
  { State.reset with
    fsm := .run
    wk := { op := c, a := a, b := b, r0 := r0, r1 := r1, s0 := s0, s1 := s1, t0 := t0, t1 := t1, k := k } }

/-- The input ports of a clock cycle with a word access, and of one in which nothing is presented. -/
def wordPins (we : Bool) (off : Offset) (d : Word) : PinsIn :=
  { rst := false, req := true, we := we, addr := off, size := 2#2, wdata := d }
def quietPins : PinsIn := { wordPins false 0x00#6 0#32 with req := false }

/-- A block that has just accepted `modinv 5, 27` (vector M1). -/
def runM1 : State := runWith .modinv 5 27 5 27 1 0 0 1 0#7

/-- A word access at an offset, BASE = 0. -/
def wordAccess (we : Bool) (off : Nat) (d : Word) : Access := { we := we, size := 2#2, addr := off, wdata := d }

/-! ### Well-formedness: each check refuses an ill-formed term -/

theorem test_params_wf : Params.wf { W := 4, base := 64 } = true := by decide
theorem test_params_width_too_small : Params.wf { W := 3, base := 0 } = false := by decide
theorem test_params_width_too_large : Params.wf { W := 33, base := 0 } = false := by decide
theorem test_params_base_unaligned : Params.wf { W := 32, base := 32 } = false := by decide
theorem test_word_canonical : TWord.canonical 0x18000000703#41 = true := by decide
theorem test_word_reserved_bit : TWord.canonical 0x18000000004#41 = false := by decide
theorem test_word_read_with_data : TWord.canonical 0x08400000001#41 = false := by decide

/-! ### Decoding: words written out from 30_encoding.md R70-R72 and 20_memory.md R53
`we = 1` is bit 40, `size = 2` is bit 39, the offset is bits 37:32. -/

theorem test_decode_commands :
    decode 0x18000000001#41 = .instr (.gcd false) ∧ decode 0x18000000103#41 = .instr (.egcd true) ∧
    decode 0x18000000201#41 = .instr (.modinv false) := by decide
theorem test_decode_illegal_commands :
    decode 0x18000000301#41 = .instr (.illegalOp3 false) ∧ decode 0x18000000403#41 = .instr (.illegalOp4 true) ∧
    decode 0x18000000501#41 = .instr (.illegalOp5 false) ∧ decode 0x18000000601#41 = .instr (.illegalOp6 false) ∧
    decode 0x18000000703#41 = .instr (.illegalOp7 true) := by decide
theorem test_decode_control : decode 0x18000000602#41 = .instr (.ctrl 6#3 true) := by decide
theorem test_decode_operand_writes :
    decode 0x18800000005#41 = .instr (.wrOpa 5#32) ∧ decode 0x18CFFFFFFFF#41 = .instr (.wrOpb 0xFFFFFFFF#32) := by
  decide
theorem test_decode_control_reads :
    decode 0x08000000000#41 = .instr .rdCtrl ∧ decode 0x08400000000#41 = .instr .rdStatus ∧
    decode 0x08800000000#41 = .instr .rdOpa ∧ decode 0x08C00000000#41 = .instr .rdOpb := by decide
theorem test_decode_result_reads :
    decode 0x09000000000#41 = .instr .rdResG ∧ decode 0x09400000000#41 = .instr .rdResX ∧
    decode 0x09800000000#41 = .instr .rdResY ∧ decode 0x09C00000000#41 = .instr .rdResInv ∧
    decode 0x0A000000000#41 = .instr .rdIters := by decide
/-- CT11: reserved bits of a command word are ignored. -/
theorem test_decode_reserved_ignored : decode 0x180FFFFF8FC#41 = .instr (.ctrl 0#3 false) := by decide
/-- BE1 to BE9. -/
theorem test_decode_bus_errors :
    decode 0x18400000000#41 = .busErr .readOnly ∧ decode 0x19C00000001#41 = .busErr .readOnly ∧
    decode 0x1A000000000#41 = .busErr .readOnly ∧ decode 0x0A400000000#41 = .busErr .unmapped ∧
    decode 0x0BC00000000#41 = .busErr .unmapped ∧ decode 0x08200000000#41 = .busErr .misaligned ∧
    decode 0x10800000007#41 = .busErr .size ∧ decode 0x04400000000#41 = .busErr .size ∧
    decode 0x0C000000000#41 = .busErr .size := by decide
theorem test_encode_modinv : encode (.modinv true) = 0x18000000203#41 := by decide
theorem test_table_has_20_rows : opcodeTable.length = 20 := by decide

/-! ### Commands -/

/-- P3 statement 3: EGCD accepted with (240, 46), BUSY = 1. -/
theorem test_egcd_accepted :
    (nextOf (exec (.egcd false) (idleWith 240#32 46#32))).map (fun t => (t.fsm, t.wk.r0, t.wk.r1, t.wk.s0, t.wk.t1)) =
      some (.run, 240, 46, 1, 1) := by decide
/-- M6: the operand -5 is latched as a signed value. -/
theorem test_modinv_latches_signed :
    (nextOf (exec (.modinv false) (idleWith 0xFFFFFFFB#32 27#32))).map (fun t => (t.wk.op, t.wk.a, t.wk.b)) =
      some (.modinv, -5, 27) := by decide
/-- CT8, CT9: a START with CLR clears OVR, one without keeps it. -/
theorem test_gcd_keeps_overrun_unless_cleared :
    (nextOf (exec (.gcd true) { State.reset with ovr := true, done := true })).map statusWord = some 0x01#32 ∧
    (nextOf (exec (.gcd false) { State.reset with ovr := true })).map statusWord = some 0x09#32 := by decide
/-- CT5: a START in RUN is dropped. -/
theorem test_gcd_overrun :
    (nextOf (exec (.gcd false) { runM1 with op := 2#3 })).map (fun t => (statusWord t, readReg t .ctrl, t.wk)) =
      some (0x09#32, 0x000#32, runM1.wk) := by decide
/-- CT1. -/
theorem test_illegalOp3_rejected :
    (nextOf (exec (.illegalOp3 false) State.reset)).map (fun t => (statusWord t, readReg t .ctrl)) =
      some (0x12#32, 0x300#32) := by decide
/-- CT6: an overrun, not ILLOP. -/
theorem test_illegalOp3_overrun :
    (nextOf (exec (.illegalOp3 false) runM1)).map statusWord = some 0x09#32 := by decide
theorem test_illegalOp4_rejected :
    (nextOf (exec (.illegalOp4 false) State.reset)).map (fun t => (statusWord t, readReg t .ctrl)) =
      some (0x12#32, 0x400#32) := by decide
theorem test_illegalOp5_rejected :
    (nextOf (exec (.illegalOp5 false) State.reset)).map (fun t => (statusWord t, readReg t .ctrl)) =
      some (0x12#32, 0x500#32) := by decide
theorem test_illegalOp6_rejected :
    (nextOf (exec (.illegalOp6 false) State.reset)).map (fun t => (statusWord t, readReg t .ctrl)) =
      some (0x12#32, 0x600#32) := by decide
/-- CT2. -/
theorem test_illegalOp7_rejected :
    (nextOf (exec (.illegalOp7 false) State.reset)).map (fun t => (statusWord t, readReg t .ctrl)) =
      some (0x12#32, 0x700#32) := by decide
/-- CT10. -/
theorem test_ctrl_stores_op :
    (nextOf (exec (.ctrl 1#3 false) { State.reset with done := true })).map (fun t => (statusWord t, readReg t .ctrl)) =
      some (0x02#32, 0x100#32) := by decide
/-- CT7. -/
theorem test_ctrl_clears_overrun :
    (nextOf (exec (.ctrl 0#3 true) { runM1 with ovr := true })).map statusWord = some 0x01#32 := by decide

/-! ### Operand writes and reads -/

/-- CT12. -/
theorem test_wrOpa_in_run :
    (nextOf (exec (.wrOpa 9#32) runM1)).map (fun t => (readReg t .opa, t.wk.a)) = some (9#32, 5) := by decide
/-- W1. -/
theorem test_wrOpa_width_4 :
    (nextOf (exec (.wrOpa 0x1F#32) (State.resetWith { W := 4, base := 0 }))).map (fun t => (t.opa, readReg t .opa)) =
      some (0xF#32, 0xFFFFFFFF#32) := by decide
/-- W3, for OPB. -/
theorem test_wrOpb_width_4 :
    (nextOf (exec (.wrOpb 0xFFFFFFF8#32) (State.resetWith { W := 4, base := 0 }))).map (fun t => readReg t .opb) =
      some 0xFFFFFFF8#32 := by decide
theorem test_rdCtrl :
    (nextOf (exec .rdCtrl { State.reset with op := 3#3 })).map (·.resp) = some (.readData 0x300#32) := by decide
/-- 95: 0x22 is DONE with ERR 2; OVR adds 0x08. -/
theorem test_rdStatus :
    (nextOf (exec .rdStatus { State.reset with done := true, err := 2#4, ovr := true })).map (·.resp) =
      some (.readData 0x2A#32) := by decide
theorem test_rdOpa : (nextOf (exec .rdOpa (idleWith 240#32 46#32))).map (·.resp) = some (.readData 240#32) := by decide
theorem test_rdOpb : (nextOf (exec .rdOpb (idleWith 240#32 46#32))).map (·.resp) = some (.readData 46#32) := by decide
theorem test_rdResG :
    (nextOf (exec .rdResG { State.reset with resG := { word := 6#32, reading := .unsigned } })).map (·.resp) =
      some (.readData 6#32) := by decide
theorem test_rdResX : (nextOf (exec .rdResX { State.reset with resX := 11#32 })).map (·.resp) = some (.readData 11#32) := by
  decide
theorem test_rdResY : (nextOf (exec .rdResY { State.reset with resY := 47#32 })).map (·.resp) = some (.readData 47#32) := by
  decide
theorem test_rdResInv :
    (nextOf (exec .rdResInv { State.reset with resInv := 14#32 })).map (·.resp) = some (.readData 14#32) := by decide
theorem test_rdIters : (nextOf (exec .rdIters { State.reset with iters := 5#32 })).map (·.resp) = some (.readData 5#32) := by
  decide
/-- R54: byte 1 of RES_X is its bits 15:8; offset 0x24 has no byte. -/
theorem test_window_bytes :
    windowByte { State.reset with resX := 0x12345678#32 } 0x15#6 = some 0x56#8 ∧
    windowByte State.reset 0x24#6 = none := by decide

/-! ### The engine -/

/-- The trace of E10, step 1: a floor quotient at a negative dividend. -/
theorem test_iterate_floors :
    (nextOf (step (runWith .egcd (-5) 3 (-5) 3 1 0 0 1 0#7))).map (·.wk) =
      some { op := .egcd, a := -5, b := 3, r0 := 3, r1 := 1, s0 := 0, s1 := 1, t0 := 1, t1 := 2, k := 1#7 } := by
  decide
/-- G16: the unsigned top value. -/
theorem test_gcd_completion :
    (nextOf (step (runWith .gcd (-2147483648) 0 (-2147483648) 0 1 0 0 1 0#7))).map
      (fun t => (t.resG.word, t.resX, statusWord t)) = some (0x80000000#32, 0#32, 0x02#32) := by decide
/-- The trace of E1, step 6. -/
theorem test_egcd_completion :
    (nextOf (step (runWith .egcd 240 46 2 0 (-9) 23 47 (-120) 5#7))).map
      (fun t => (t.resG.word, t.resX, t.resY, t.resInv, t.iters, statusWord t)) =
      some (2#32, 0xFFFFFFF7#32, 47#32, 0#32, 5#32, 0x02#32) := by decide
/-- M2: the normalizer adds m. -/
theorem test_modinv_completion :
    (nextOf (step (runWith .modinv 2 27 1 0 (-13) 27 1 (-2) 3#7))).map
      (fun t => (t.resG.word, t.resInv, t.iters, statusWord t)) = some (1#32, 14#32, 3#32, 0x02#32) := by decide
/-- M13: NOINV before MODZERO. -/
theorem test_modinv_no_inverse :
    (nextOf (step (runWith .modinv 0 0 0 0 1 0 0 1 0#7))).map (fun t => (t.resInv, statusWord t)) =
      some (0#32, 0x06#32) := by decide
/-- M11: MODZERO; RES_INV has no meaning and is not tested. -/
theorem test_modinv_modzero :
    (nextOf (step (runWith .modinv 1 0 1 0 1 0 0 1 0#7))).map (fun t => (t.resG.word, t.resX, t.resY, statusWord t)) =
      some (1#32, 1#32, 0#32, 0x22#32) := by decide
/-- RS2: a reset abandons the running command. -/
theorem test_reset_in_run :
    (nextOf (step { runM1 with inputs := [.reset true] })).map (fun t => (t.fsm, t.done, t.resp)) =
      some (.idle, false, .resetIgnored) := by decide
/-- E2 and M14, by the recursion. -/
theorem test_recursion : extendedEuclid 46 240 = (2, 47, -9) ∧ extendedEuclid 5 (-27) = (-1, -11, -2) := by decide

/-! ### Fetching -/

/-- P5 statement 1, as the first event after reset. -/
theorem test_placed_word_runs :
    (nextOf (step (State.reset.withFetchWord 48 0x18000000301))).map statusWord = some 0x12#32 := by decide
/-- BE7: a byte write is answered with a bus error, and OPA keeps its value. -/
theorem test_bus_error_write :
    (nextOf (step (State.reset.withFetchWord 48 0x10800000007))).map (fun t => (t.opa, t.resp)) =
      some (0#32, .busError) := by decide
/-- BE4: an unmapped read has no data; the model faults it. -/
theorem test_bus_error_read :
    step (State.reset.withFetchWord 48 0x0A400000000) =
      .fault (.busError 0x24#6 .unmapped { State.reset with resp := .busError }) := rfl

/-! ### The invariant at concrete states -/

/-- The words of a reset block fit. -/
theorem zero_signedWord : SignedWord 32 0#32 := (by decide : sext32 32 0#32 = 0#32)

theorem idleWith_inv (a b : Word) : (idleWith a b).Inv := by
  refine ⟨(by decide : Params.default.wf = true), a.isLt, b.isLt, ?_, ?_, zero_signedWord, zero_signedWord,
    (by decide : (0#32).toNat ≤ 2 * 32 - 2), fun h => by cases h⟩
  · exact ⟨(by decide : (0#4).toNat ≤ 2), nofun, fun h => absurd rfl h⟩
  · exact (by decide : (0#32).toNat ≤ 2 ^ (32 - 1))

theorem runM1_inv : runM1.Inv := by
  obtain ⟨hp, ha, hb, hf, hg, hx, hy, hi, -⟩ := idleWith_inv 0#32 0#32
  refine ⟨hp, ha, hb, hf, hg, hx, hy, hi, fun _ => ?_⟩
  exact ⟨rfl, rfl, rfl, by constructor <;> decide, by constructor <;> decide, 0, startWorking_reachedBy _ 5 27⟩

/-! ### Clock cycles -/

/-- 70_reset_and_hazards.md R188 with n = 0 (95_test_vectors.md G4: 0 iterations, 1 step): a START of `gcd 7, 0` still runs in the next cycle
(R186), and is over at the end of it. -/
theorem test_clock_start_with_zero_divisor :
    (clockEdges [wordPins true 0x00#6 1#32] (idleWith 7#32 0#32)).fsm = .run ∧
    (clockEdges [wordPins true 0x00#6 1#32, wordPins false 0x04#6 0#32] (idleWith 7#32 0#32)).fsm = .idle ∧
    (outputs (wordPins false 0x04#6 0#32) (clockEdge (wordPins true 0x00#6 1#32) (idleWith 7#32 0#32))).rdata =
      some 1#32 := by
  decide

/-- 95_test_vectors.md M1: `modinv 5, 27` has 4 iterations, so it is over at the end of cycle t + 5. -/
theorem test_clock_modinv_takes_five :
    (clockEdges (wordPins true 0x00#6 0x201#32 :: List.replicate 4 quietPins) (idleWith 5#32 27#32)).fsm = .run ∧
    (clockEdges (wordPins true 0x00#6 0x201#32 :: List.replicate 5 quietPins) (idleWith 5#32 27#32)).fsm = .idle := by
  decide

/-- 20_memory.md R51: the answer to a bus error is not on the ports in the next cycle, and no read data is. -/
theorem test_ports_answer_is_gone :
    (outputs (wordPins false 0x24#6 0#32) runM1).err = true ∧
    outputs quietPins (clockEdge (wordPins false 0x24#6 0#32) runM1) =
      { rdata := none, err := false, busy := true, done := false } ∧
    (clockEdge (wordPins false 0x24#6 0#32) runM1).wk.k = 1#7 := by
  decide

/-! ### Witnesses: the hypotheses of each statement can be met -/

theorem witness_DecoderMatchesOpcodeTable :
    (∃ t i, decode t = .instr i) ∧ ∃ t c, decode t = .busErr c :=
  ⟨⟨0x18000000001#41, .gcd false, by decide⟩, ⟨0x18400000000#41, .readOnly, by decide⟩⟩

/-- Legality as 20_memory.md R52 spells it. -/
abbrev IsLegal (a : Access) (off : Offset) : Prop :=
  a.size = 2#2 ∧ off.toNat % 4 = 0 ∧ off.toNat ≤ 0x20 ∧
    (a.we = true → off = 0x00#6 ∨ off = 0x08#6 ∨ off = 0x0C#6)

/-- One access of each clause: legal (the last mapped offset), a write and a read that are not. -/
theorem witness_OnlyLegalTransactionsHaveEffect :
    (∃ (s : State) (a : Access) (rest : List Event) (off : Offset), s.inputs = .host a :: rest ∧
      windowOffset s.params a.addr = some off ∧ IsLegal a off ∧ off = 0x20#6) ∧
    (∃ (s : State) (a : Access) (rest : List Event) (off : Offset), s.inputs = .host a :: rest ∧
      windowOffset s.params a.addr = some off ∧ ¬ IsLegal a off ∧ a.we = true) ∧
    (∃ (s : State) (a : Access) (rest : List Event) (off : Offset), s.inputs = .host a :: rest ∧
      windowOffset s.params a.addr = some off ∧ ¬ IsLegal a off ∧ a.we = false ∧ off = 0x24#6) :=
  ⟨⟨{ State.reset with inputs := [.host (wordAccess false 0x20 0#32)] }, _, _, 0x20#6, rfl, by decide, by decide, rfl⟩,
    ⟨{ State.reset with inputs := [.host (wordAccess true 0x04 0#32)] }, _, _, 0x04#6, rfl, by decide, by decide, rfl⟩,
    ⟨{ State.reset with inputs := [.host (wordAccess false 0x24 0#32)] }, _, _, 0x24#6, rfl, by decide, by decide, rfl,
      rfl⟩⟩

/-- The boundary of the two clauses: writes at 0x23 and at 0x24. -/
theorem witness_BusErrorsThatEndTheRun :
    (∃ (s : State) (a : Access) (rest : List Event) (off : Offset), s.inputs = .host a :: rest ∧
      windowOffset s.params a.addr = some off ∧ legal a.we a.size off = false ∧
      (a.we = true ∧ a.size ≠ 3#2 ∧ off.toNat < 0x24)) ∧
    (∃ (s : State) (a : Access) (rest : List Event) (off : Offset), s.inputs = .host a :: rest ∧
      windowOffset s.params a.addr = some off ∧ legal a.we a.size off = false ∧
      ¬ (a.we = true ∧ a.size ≠ 3#2 ∧ off.toNat < 0x24)) :=
  ⟨⟨{ State.reset with inputs := [.host (wordAccess true 0x23 0#32)] }, _, _, 0x23#6, rfl, by decide, by decide,
      by decide⟩,
    ⟨{ State.reset with inputs := [.host (wordAccess true 0x24 0#32)] }, _, _, 0x24#6, rfl, by decide, by decide,
      by decide⟩⟩

theorem witness_StepRunsTheDecodedTransaction :
    (∃ (s : State) (a : Access) (rest : List Event) (off : Offset) (i : Instr), s.inputs = .host a :: rest ∧
      windowOffset s.params a.addr = some off ∧ decode (packT a.we a.size off a.wdata) = .instr i) ∧
    ∃ (s : State) (rest : List Event), s.inputs = .wait :: rest :=
  ⟨⟨{ State.reset with inputs := [.host (wordAccess true 0x00 0x201#32)] }, _, _, 0x00#6, .modinv false, rfl,
      by decide, by decide⟩, ⟨{ State.reset with inputs := [.wait] }, _, rfl⟩⟩

theorem witness_PlacedWordRunsNext : decodeTableWord 48 0x0A000000000 = some .rdIters := by decide

theorem witness_FaultsLeaveTheBlockUnchanged :
    (∃ s off c t, step s = .fault (.busError off c t)) ∧ ∃ s addr t, step s = .fault (.outsideWindow addr t) :=
  ⟨⟨_, _, _, _, test_bus_error_read⟩,
    ⟨{ State.reset with inputs := [.host (wordAccess false 0x40 0#32)] }, 0x40, State.reset, rfl⟩⟩

theorem witness_ReadsAnswerTheRegister :
    ∃ (s : State) (a : Access) (rest : List Event) (off : Offset), s.inputs = .host a :: rest ∧
      windowOffset s.params a.addr = some off ∧ a.we = false ∧ legal false a.size off = false :=
  ⟨{ State.reset with inputs := [.host (wordAccess false 0x02 0#32)] }, _, _, 0x02#6, rfl, by decide, rfl, by decide⟩

/-- The narrowest and the widest block. -/
theorem witness_OperandRegistersHoldWBits :
    (∃ s : State, s.params.wf = true ∧ s.params.W = 4) ∧ ∃ s : State, s.params.wf = true ∧ s.params.W = 32 :=
  ⟨⟨State.resetWith { W := 4, base := 0 }, by decide, rfl⟩, ⟨State.reset, by decide, rfl⟩⟩

/-- The last byte of a register and its last bit. -/
theorem witness_WindowBytesAreLittleEndian : 3 < 4 ∧ 7 < 8 := by decide

theorem witness_ReadsChangeNothing :
    ∃ (i : Instr) (s t : State), i.ctrlFields = none ∧ (∀ d, i ≠ .wrOpa d ∧ i ≠ .wrOpb d) ∧ exec i s = .next t :=
  ⟨.rdStatus, State.reset, _, rfl, fun _ => ⟨nofun, nofun⟩, rfl⟩

theorem witness_OperandWriteFrame :
    (∃ s t, exec (.wrOpa 5#32) s = .next t) ∧ ∃ s t, exec (.wrOpb 5#32) s = .next t :=
  ⟨⟨State.reset, _, rfl⟩, ⟨State.reset, _, rfl⟩⟩

theorem witness_StartIsAcceptedInIdle : (idleWith 48#32 18#32).fsm = .idle := rfl

theorem witness_IllegalCommandIsRejectedInIdle : State.reset.fsm = .idle := rfl

theorem witness_StartIsDroppedInRun :
    runM1.fsm = .run ∧ (Instr.gcd true).Starts 0#3 true ∧ (Instr.illegalOp7 false).Starts 7#3 false :=
  ⟨rfl, rfl, rfl⟩

theorem witness_StatusReadsBusyInRun :
    (runM1.Inv ∧ runM1.fsm = .run) ∧
    (State.reset.fsm = .idle ∧ (Instr.modinv false).Starts 2#3 false ∧ (2#3).toNat < 3) :=
  ⟨⟨runM1_inv, rfl⟩, rfl, rfl, by decide⟩

/-- A completion and a reset leave RUN. -/
theorem witness_ClearDoesNotAbort :
    (runM1.Inv ∧ runM1.fsm = .run) ∧
    (∃ s t : State, s.fsm = .run ∧ step s = .next t ∧ t.fsm = .idle ∧ s.inputs = []) ∧
    (∃ s t : State, s.fsm = .run ∧ step s = .next t ∧ t.fsm = .idle ∧ s.Resets) :=
  ⟨⟨runM1_inv, rfl⟩, ⟨runWith .gcd 7 0 7 0 1 0 0 1 0#7, _, rfl, rfl, rfl, rfl⟩,
    ⟨{ runM1 with inputs := [.reset false] }, _, rfl, rfl, rfl, false, [], rfl⟩⟩

theorem witness_ControlWriteFrame :
    (∃ s t, (Instr.ctrl 5#3 true).ctrlFields = some (5#3, true, false) ∧ exec (.ctrl 5#3 true) s = .next t) ∧
    ∃ s t, (Instr.gcd false).ctrlFields = some (0#3, false, true) ∧ exec (.gcd false) s = .next t :=
  ⟨⟨State.reset, _, rfl, rfl⟩, ⟨State.reset, _, rfl, rfl⟩⟩

/-- A step that changes each flag both ways exists: acceptance, completion, rejection, overrun, CLR. -/
theorem witness_StatusWritersAreComplete :
    (∃ s t, step s = .next t ∧ s.fsm = .idle ∧ t.fsm = .run ∧ s.done = true ∧ t.done = false) ∧
    (∃ s t, step s = .next t ∧ s.fsm = .run ∧ t.fsm = .idle ∧ s.noinv = false ∧ t.noinv = true) ∧
    (∃ s t, step s = .next t ∧ s.done = false ∧ t.done = true ∧ t.err = 1#4 ∧ s.noinv = true ∧ t.noinv = false) ∧
    (∃ s t, step s = .next t ∧ s.ovr = false ∧ t.ovr = true) ∧
    (∃ s t, step s = .next t ∧ s.ovr = true ∧ t.ovr = false) ∧
    ∃ s t, step s = .next t ∧ s.err ≠ t.err ∧ t.err = 2#4 :=
  ⟨⟨({ State.reset with done := true }).withFetchWord 48 0x18000000001, _, rfl, rfl, rfl, rfl, rfl⟩,
    ⟨runWith .modinv 0 0 0 0 1 0 0 1 0#7, _, rfl, rfl, rfl, rfl, rfl⟩,
    ⟨({ State.reset with noinv := true }).withFetchWord 48 0x18000000301, _, rfl, rfl, rfl, rfl, rfl, rfl⟩,
    ⟨runM1.withFetchWord 48 0x18000000001, _, rfl, rfl, rfl⟩,
    ⟨({ runM1 with ovr := true }).withFetchWord 48 0x18000000002, _, rfl, rfl, rfl⟩,
    ⟨runWith .modinv 1 0 1 0 1 0 0 1 0#7, _, rfl, by decide, rfl⟩⟩

theorem witness_EngineStepsExactlyInRun :
    (∃ s : State, s.EngineMoves ∧ s.fsm = .idle) ∧
    (∃ s : State, s.EngineMoves ∧ s.fsm = .run ∧ s.wk.r1 ≠ 0) ∧
    (∃ s : State, s.EngineMoves ∧ s.fsm = .run ∧ s.wk.r1 = 0) ∧
    ∃ (p : PinsIn) (s t : State), p.rst = false ∧ s.fsm = .run ∧ t.fsm = .idle :=
  ⟨⟨{ State.reset with inputs := [.engine] }, .inr ⟨[], rfl⟩, rfl⟩, ⟨runM1, .inl rfl, rfl, by decide⟩,
    ⟨{ runWith .gcd 7 0 7 0 1 0 0 1 0#7 with inputs := [.engine] }, .inr ⟨[], rfl⟩, rfl, rfl⟩,
    ⟨quietPins, runM1, State.reset, rfl, rfl, rfl⟩⟩

/-- A completion, an idle step, and a reset. -/
theorem witness_IdleHoldsTheWorkingRegisters :
    (∃ s t : State, step s = .next t ∧ t.fsm = .idle ∧ s.fsm = .run ∧ s.inputs = []) ∧
    (∃ s t : State, step s = .next t ∧ t.fsm = .idle ∧ s.fsm = .idle) ∧
    ∃ s t : State, step s = .next t ∧ t.fsm = .idle ∧ s.Resets :=
  ⟨⟨runWith .gcd 7 0 7 0 1 0 0 1 0#7, _, rfl, rfl, rfl, rfl⟩, ⟨State.reset, _, rfl, rfl, rfl⟩,
    ⟨{ runM1 with inputs := [.reset false] }, _, rfl, rfl, false, [], rfl⟩⟩

/-- A negative dividend with a positive divisor, and a negative divisor. -/
theorem witness_IterationIsOneFloorDivision :
    (∃ s : State, s.EngineMoves ∧ s.fsm = .run ∧ s.wk.r0 = -5 ∧ s.wk.r1 = 3) ∧
    (∃ s : State, s.EngineMoves ∧ s.fsm = .run ∧ s.wk.r0 = 5 ∧ s.wk.r1 = -3) ∧
    ∃ w : Working, w.r0 = 240 ∧ w.r1 = 46 ∧ w.s0 = 1 ∧ w.s1 = 0 ∧ w.t0 = 0 ∧ w.t1 = 1 :=
  ⟨⟨{ runWith .egcd (-5) 3 (-5) 3 1 0 0 1 0#7 with inputs := [.engine] }, .inr ⟨[], rfl⟩, rfl, rfl, rfl⟩,
    ⟨{ runWith .egcd 5 (-3) 5 (-3) 1 0 0 1 0#7 with inputs := [.engine] }, .inr ⟨[], rfl⟩, rfl, rfl, rfl⟩,
    ⟨startWorking .egcd 240 46, rfl, rfl, rfl, rfl, rfl, rfl⟩⟩

theorem witness_GcdAndEgcdCompletionStep :
    (∃ s : State, s.EngineMoves ∧ s.fsm = .run ∧ s.wk.r1 = 0 ∧ s.wk.op = .gcd) ∧
    ∃ s : State, s.EngineMoves ∧ s.fsm = .run ∧ s.wk.r1 = 0 ∧ s.wk.op = .egcd :=
  ⟨⟨{ runWith .gcd 7 0 7 0 1 0 0 1 0#7 with inputs := [.engine] }, .inr ⟨[], rfl⟩, rfl, rfl, rfl⟩,
    ⟨{ runWith .egcd 240 46 2 0 (-9) 23 47 (-120) 5#7 with inputs := [.engine] }, .inr ⟨[], rfl⟩, rfl, rfl, rfl⟩⟩

/-- One state for each of the three ends of MODINV. -/
theorem witness_ModinvCompletionStep :
    (∃ s : State, s.EngineMoves ∧ s.fsm = .run ∧ s.wk.r1 = 0 ∧ s.wk.op = .modinv ∧ s.wk.r0 ≠ 1) ∧
    (∃ s : State, s.EngineMoves ∧ s.fsm = .run ∧ s.wk.r1 = 0 ∧ s.wk.op = .modinv ∧ s.wk.r0 = 1 ∧ s.wk.b = 0) ∧
    ∃ s : State, s.EngineMoves ∧ s.fsm = .run ∧ s.wk.r1 = 0 ∧ s.wk.op = .modinv ∧ s.wk.r0 = 1 ∧ s.wk.b ≠ 0 :=
  ⟨⟨{ runWith .modinv 0 27 27 0 0 1 1 0 1#7 with inputs := [.engine] }, .inr ⟨[], rfl⟩, rfl, rfl, rfl, by decide⟩,
    ⟨{ runWith .modinv 1 0 1 0 1 0 0 1 0#7 with inputs := [.engine] }, .inr ⟨[], rfl⟩, rfl, rfl, rfl, rfl, rfl⟩,
    ⟨{ runWith .modinv 2 27 1 0 (-13) 27 1 (-2) 3#7 with inputs := [.engine] }, .inr ⟨[], rfl⟩, rfl, rfl, rfl, rfl, by decide⟩⟩

theorem witness_EveryCommandCompletes : runM1.Inv ∧ runM1.fsm = .run ∧ runM1.inputs = [] := ⟨runM1_inv, rfl, rfl⟩

/-- With a divisor left, and at a completion. -/
theorem witness_WorkingRegistersFit :
    (∃ (p : Params) (w : Working) (n : Nat), p.wf = true ∧ InRange p.W w.a ∧ InRange p.W w.b ∧ w.ReachedBy n ∧
      w.r1 ≠ 0) ∧
    ∃ (p : Params) (w : Working) (n : Nat), p.wf = true ∧ InRange p.W w.a ∧ InRange p.W w.b ∧ w.ReachedBy n ∧
      w.r1 = 0 :=
  ⟨⟨.default, startWorking .egcd 5 27, 0, by decide, by constructor <;> decide, by constructor <;> decide,
      startWorking_reachedBy _ _ _, by decide⟩,
    ⟨.default, startWorking .egcd 7 0, 0, by decide, by constructor <;> decide, by constructor <;> decide,
      startWorking_reachedBy _ _ _, rfl⟩⟩

/-- The corners of the range. -/
theorem witness_FewIterationsAtModulus27 : -27 ≤ (-27 : Int) ∧ (-27 : Int) ≤ 27 ∧ (27 : Int) ≤ 27 := by decide

theorem witness_IterationEqualsRecursion :
    ∃ w : Working, w.Reached ∧ w.r1 = 0 := ⟨startWorking .egcd 7 0, ⟨0, startWorking_reachedBy _ _ _⟩, rfl⟩

/-- A step of each kind from RUN: one that stays, a completion, a reset. -/
theorem witness_ResultsDependOnLatchedOperandsOnly :
    (∃ s t : State, s.Inv ∧ s.fsm = .run ∧ step s = .next t ∧ t.fsm = .run) ∧
    (∃ s t : State, s.fsm = .run ∧ step s = .next t ∧ s.Completes) ∧
    ∃ s t : State, s.fsm = .run ∧ step s = .next t ∧ s.Resets :=
  ⟨⟨runM1, _, runM1_inv, rfl, rfl, rfl⟩,
    ⟨runWith .gcd 7 0 7 0 1 0 0 1 0#7, _, rfl, rfl, .inl rfl, rfl, rfl⟩,
    ⟨{ runM1 with inputs := [.reset false] }, _, rfl, rfl, false, [], rfl⟩⟩

theorem witness_GcdCommandComputesTheGcd :
    (idleWith 48#32 18#32).Inv ∧ (idleWith 48#32 18#32).fsm = .idle ∧ (idleWith 48#32 18#32).inputs = [] ∧
    ∃ b : Int, b ≠ 0 :=
  ⟨idleWith_inv _ _, rfl, rfl, 1, by decide⟩

theorem witness_EgcdCommandComputesTheTriple :
    (idleWith 240#32 46#32).Inv ∧ (idleWith 240#32 46#32).fsm = .idle ∧ (idleWith 240#32 46#32).inputs = [] ∧
    ∃ m : Int, m ≠ 0 :=
  ⟨idleWith_inv _ _, rfl, rfl, -1, by decide⟩

/-- With an inverse, with none, and with modulus 0. -/
theorem witness_ModinvCommandComputesTheInverse :
    (idleWith 5#32 27#32).Inv ∧ (idleWith 5#32 27#32).fsm = .idle ∧ (idleWith 5#32 27#32).inputs = [] ∧
    (extendedEuclid 5 27).1 = 1 ∧ (idleWith 9#32 27#32).Inv ∧ (extendedEuclid 9 27).1 ≠ 1 ∧
    (idleWith 1#32 0#32).Inv ∧ (extendedEuclid 1 0).1 = 1 :=
  ⟨idleWith_inv _ _, rfl, rfl, by decide, idleWith_inv _ _, by decide, idleWith_inv _ _, by decide⟩

theorem witness_RemainderEndsAtTheGcd :
    (∃ w : Working, w.Reached ∧ w.r1 = 0) ∧ ∃ b : Int, b ≠ 0 :=
  ⟨witness_IterationEqualsRecursion, 27, by decide⟩

theorem witness_GcdIsUnsignedAndEgcdSigned :
    ∃ (p : Params) (a b : Int), p.wf = true ∧ InRange p.W a ∧ InRange p.W b ∧ gcdN a b = 2 ^ (p.W - 1) :=
  ⟨{ W := 4, base := 0 }, -8, 0, by decide, by constructor <;> decide, by constructor <;> decide, by decide⟩

theorem witness_RecursionIsTheSources : ∃ m : Int, m ≠ 0 := ⟨-3, by decide⟩

theorem witness_CoefficientsAreBounded :
    ∃ (p : Params) (a m : Int), p.wf = true ∧ InRange p.W a ∧ InRange p.W m ∧ 0 < m ∧ (extendedEuclid a m).1 = 1 :=
  ⟨.default, 5, 27, by decide, by constructor <;> decide, by constructor <;> decide, by decide, by decide⟩

theorem witness_SignOfTheRecursionsGcd : (∃ m : Int, 0 < m) ∧ ∃ m : Int, m < 0 := ⟨⟨3, by decide⟩, ⟨-3, by decide⟩⟩

theorem witness_InverseExistsExactly :
    (∃ W a, (commandResults W .modinv a 27).noinv = true) ∧ (∃ m : Int, 0 < m) ∧ ∃ m : Int, m < 0 :=
  ⟨⟨32, 9, by decide⟩, ⟨27, by decide⟩, ⟨-27, by decide⟩⟩

/-- Both ends of the range the normalizer is reached with. -/
theorem witness_NormalizerIsOneConditionalAdd :
    (∃ x m : Int, 1 ≤ m ∧ -m ≤ x ∧ x < m ∧ x = -m) ∧ (∃ x m : Int, 1 ≤ m ∧ -m ≤ x ∧ x < m ∧ x = m - 1) ∧
    ∃ a m : Int, 1 ≤ m ∧ (extendedEuclid a m).1 = 1 :=
  ⟨⟨-27, 27, by decide, by decide, by decide, by decide⟩, ⟨26, 27, by decide, by decide, by decide, by decide⟩,
    ⟨2, 27, by decide, by decide⟩⟩

theorem witness_ModzeroIsOneModuloZero : 4 ≤ 32 ∧ 32 ≤ 32 ∧ (commandResults 32 .modinv 1 0).err = 2#4 :=
  ⟨by decide, by decide, by decide⟩

theorem witness_NegativeModulusHasNoInverse : ∃ m : Int, m < 0 := ⟨-27, by decide⟩

/-- With an inverse and with none. -/
theorem witness_InverseModulo27 :
    Params.default.wf = true ∧ InRange Params.default.W 5 ∧ InRange Params.default.W 27 ∧
    (commandResults 32 .modinv 5 27).noinv = false ∧ (commandResults 32 .modinv 9 27).noinv = true :=
  ⟨by decide, by constructor <;> decide, by constructor <;> decide, by decide, by decide⟩

theorem witness_KeyChecksAgreeModulo27 :
    Params.default.wf = true ∧ InRange Params.default.W 9 ∧ InRange Params.default.W 27 :=
  ⟨by decide, by constructor <;> decide, by constructor <;> decide⟩

/-- With a transaction presented in the reset cycle. -/
theorem witness_ResetClearsEverything : ({ runM1 with inputs := [.reset true] } : State).inputs = .reset true :: [] := rfl

/-- A cycle with a STATUS read, and one with a CLR. -/
theorem witness_TransactionPrecedesCompletionInACycle :
    (∃ (s : State) (rest : List Event) (p : PinsIn), s.fsm = .run ∧ s.wk.r1 = 0 ∧ p.rst = false ∧ p.req = true ∧
      p.size = 2#2 ∧ s.inputs = cycle p s ++ rest ∧ p.we = false ∧ p.addr = 0x04#6) ∧
    ∃ (s : State) (rest : List Event) (p : PinsIn), s.fsm = .run ∧ s.wk.r1 = 0 ∧ p.rst = false ∧ p.req = true ∧
      p.size = 2#2 ∧ s.inputs = cycle p s ++ rest ∧ p.we = true ∧ p.addr = 0x00#6 ∧ p.wdata = 2#32 :=
  ⟨⟨{ runWith .gcd 7 0 7 0 1 0 0 1 0#7 with inputs := [.host (wordAccess false 0x04 0#32), .engine] }, [],
      wordPins false 0x04#6 0#32, rfl, rfl, rfl, rfl, rfl, rfl, rfl, rfl⟩,
    ⟨{ runWith .gcd 7 0 7 0 1 0 0 1 0#7 with inputs := [.host (wordAccess true 0x00 2#32), .engine] }, [],
      wordPins true 0x00#6 2#32, rfl, rfl, rfl, rfl, rfl, rfl, rfl, rfl, rfl⟩⟩

/-- A legal and an illegal transaction, and a quiet cycle; a reset cycle with a transaction. -/
theorem witness_PortsAnswerInTheirCycle :
    (∃ p : PinsIn, p.req = true ∧ p.rst = false ∧ legal p.we p.size p.addr = true) ∧
    (∃ p : PinsIn, p.req = true ∧ p.rst = false ∧ legal p.we p.size p.addr = false) ∧
    quietPins.req = false ∧ ∃ p : PinsIn, p.req = true ∧ p.rst = true :=
  ⟨⟨wordPins false 0x20#6 0#32, rfl, rfl, by decide⟩, ⟨wordPins false 0x24#6 0#32, rfl, rfl, by decide⟩, rfl,
    ⟨{ wordPins false 0x00#6 0#32 with rst := true }, rfl, rfl⟩⟩

/-- A cycle of RUN with a transaction, a bus error that the model faults, and a quiet cycle of IDLE without events. -/
theorem witness_ClockCycleIsARunOfEvents :
    (∃ (s : State) (p : PinsIn), s.inputs = cycle p s ++ [] ∧ s.fsm = .run ∧ p.req = true) ∧
    (∃ (s : State) (p : PinsIn), s.inputs = cycle p s ++ [] ∧ p.req = true ∧ legal p.we p.size p.addr = false) ∧
    ∃ (s : State) (p : PinsIn), s.inputs = cycle p s ++ [] ∧ s.inputs = [] :=
  ⟨⟨{ runM1 with inputs := [.host (wordAccess true 0x08 7#32), .engine] }, wordPins true 0x08#6 7#32, rfl, rfl, rfl⟩,
    ⟨{ State.reset with inputs := [.host (wordAccess false 0x24 0#32)] }, wordPins false 0x24#6 0#32, rfl, rfl, by decide⟩,
    ⟨State.reset, quietPins, rfl, rfl⟩⟩

/-- A START of MODINV and an illegal START, with quiet cycles after. -/
theorem witness_CommandTakesItersPlusOneClocks :
    ((idleWith 5#32 27#32).Inv ∧ (idleWith 5#32 27#32).fsm = .idle ∧
      (wordPins true 0x00#6 0x201#32).rst = false ∧ (wordPins true 0x00#6 0x201#32).req = true ∧
      decode (wordPins true 0x00#6 0x201#32).word = .instr (.modinv false) ∧
      (Instr.modinv false).Starts 2#3 false ∧ commandOf 2#3 = some .modinv) ∧
    (∀ q ∈ List.replicate 5 quietPins, q.rst = false) ∧
    decode (wordPins true 0x00#6 0x301#32).word = .instr (.illegalOp3 false) ∧
    (Instr.illegalOp3 false).Starts 3#3 false ∧ commandOf 3#3 = none :=
  ⟨⟨idleWith_inv _ _, rfl, rfl, rfl, by decide, rfl, by decide⟩, by decide, by decide, rfl, by decide⟩

/-- The invariant does not speak of the script. -/
theorem inv_of_inputs {s : State} (h : s.Inv) (l : List Event) : ({ s with inputs := l } : State).Inv := h

/-- In IDLE and in RUN. -/
theorem witness_WaitEndsWithTheResults :
    (∃ (s : State) (rest : List Event), s.Inv ∧ s.inputs = .wait :: rest ∧ s.fsm = .idle) ∧
    ∃ (s : State) (rest : List Event), s.Inv ∧ s.inputs = .wait :: rest ∧ s.fsm = .run :=
  ⟨⟨{ idleWith 5#32 27#32 with inputs := [.wait] }, [], inv_of_inputs (idleWith_inv _ _) _, rfl, rfl⟩,
    ⟨{ runM1 with inputs := [.wait] }, [], inv_of_inputs runM1_inv _, rfl, rfl⟩⟩

theorem witness_InvariantAtReset : Params.wf { W := 4, base := 64 } = true := by decide

/-- From IDLE and from RUN. -/
theorem witness_InvariantIsKept :
    (∃ s t : State, s.Inv ∧ step s = .next t ∧ t.fsm = .run ∧ s.fsm = .idle) ∧
    ∃ s t : State, s.Inv ∧ step s = .next t ∧ s.fsm = .run :=
  ⟨⟨{ idleWith 5#32 27#32 with inputs := [.host (wordAccess true 0x00 0x201#32)] }, _,
      inv_of_inputs (idleWith_inv _ _) _, rfl, rfl, rfl⟩, ⟨runM1, _, runM1_inv, rfl, rfl⟩⟩

/-- Both sides of the range, W = 4: 7 and -8 are operands, 8 and -9 are not. -/
theorem witness_SourceCallRefusesWideIntegers :
    Params.wf { W := 4, base := 0 } = true ∧ InRange 4 7 ∧ InRange 4 (-8) ∧ ¬ InRange 4 8 ∧ ¬ InRange 4 (-9) := by
  unfold InRange; decide

end Sys2Proof.Tests
end

section
/-! Operands as they are stored and read (10_state.md R28): what `Params.wf` says, what `sint` and `sext32` compute, and
the operand registers' four instructions. -/

namespace Sys2Proof

/-- Legal parameters, each condition by itself (00_scope.md R5). -/
theorem Params.wf_iff (p : Params) : p.wf = true ↔ 4 ≤ p.W ∧ p.W ≤ 32 ∧ p.base % 64 = 0 := by
  simp [Params.wf, and_assoc]

end Sys2Proof

namespace Sys2Proof.Machine

/-- `sint_W` is a W-bit two's-complement value; with `sint_sub_toNat_dvd`, this determines it. -/
theorem sint_inRange {W : Nat} (hW : 0 < W) (v : Word) : InRange W (sint W v) := by
  obtain ⟨n, rfl⟩ := Nat.exists_eq_succ_of_ne_zero hW.ne'
  have hpos : 0 < 2 ^ (n + 1) := by positivity
  have hlow := Int.le_bmod (x := v.toNat) hpos
  have hhigh := Int.bmod_lt (x := v.toNat) hpos
  simp only [InRange, sint, Nat.add_sub_cancel, Nat.succ_eq_add_one]
  push_cast [pow_succ] at hlow hhigh ⊢
  omega

/-- `sint_W(v)` is congruent to the word's unsigned value. -/
theorem sint_sub_toNat_dvd (W : Nat) (v : Word) : (2 ^ W : Int) ∣ sint W v - v.toNat := by
  simpa [sint] using Int.dvd_bmod_sub_self (x := v.toNat) (m := 2 ^ W)

/-- Only the low W bits of a word count. -/
@[simp] theorem sint_lowBits {W : Nat} (hW : W ≤ 32) (v : Word) : sint W (lowBits W v) = sint W v := by
  rw [sint, sint, lowBits_toNat hW, Int.natCast_mod, Int.emod_bmod]

/-- In the widest block a word is its own sign extension. -/
theorem sext32_width_32 (v : Word) : sext32 32 v = v := by
  rw [sext32, sint, ← BitVec.toInt_eq_toNat_bmod, BitVec.ofInt_toInt]

/-- WR_OPA stores the low W bits and completes, whatever the FSM state (20_memory.md R59). -/
theorem exec_wrOpa (d : Word) (s : State) :
    exec (.wrOpa d) s = .next { s with opa := lowBits s.params.W d, resp := .writeDone } := rfl

/-- WR_OPB stores the low W bits and completes, whatever the FSM state (20_memory.md R59). -/
theorem exec_wrOpb (d : Word) (s : State) :
    exec (.wrOpb d) s = .next { s with opb := lowBits s.params.W d, resp := .writeDone } := rfl

/-- RD_OPA answers with the pattern of the operand's signed value (20_memory.md R58). -/
theorem exec_rdOpa (s : State) :
    exec .rdOpa s = .next { s with resp := .readData (BitVec.ofInt 32 (sint s.params.W s.opa)) } := rfl

/-- RD_OPB answers with the pattern of the operand's signed value (20_memory.md R58). -/
theorem exec_rdOpb (s : State) :
    exec .rdOpb s = .next { s with resp := .readData (BitVec.ofInt 32 (sint s.params.W s.opb)) } := rfl

/-- Settles O11: the stored word is `lowBits W d`, and its signed value is that of the written word, since `sint W` looks
at the low W bits only. -/
theorem operandRegistersHoldWBits : Obligations.OperandRegistersHoldWBits := by
  unfold Obligations.OperandRegistersHoldWBits
  refine ⟨fun s d hwf => ?_, fun p => ⟨rfl, rfl⟩⟩
  obtain ⟨hlow, hhigh, -⟩ := (Params.wf_iff s.params).mp hwf
  refine ⟨lowBits s.params.W d, lowBits_toNat hhigh d, exec_wrOpa d s, exec_wrOpb d s,
    sint s.params.W d, sint_inRange (by omega) d, sint_sub_toNat_dvd s.params.W d, ?_, ?_, fun h32 => ?_⟩
  · rw [exec_rdOpa, sint_lowBits hhigh]
  · rw [exec_rdOpb, sint_lowBits hhigh]
  · rw [h32]
    exact sext32_width_32 d

end Sys2Proof.Machine
end

section
/-! Transactions of the register window (20_memory.md R50 to R54, R58): legality and the decoder, the step of a presented
access, the nine reads, and the byte view. -/

namespace Sys2Proof

/-- Legality, each condition by itself (20_memory.md R52). -/
theorem legal_iff (we : Bool) (size : BitVec 2) (off : Offset) :
    legal we size off = true ↔ size = 2#2 ∧ off.toNat % 4 = 0 ∧ off.toNat ≤ 0x20 ∧
      (we = true → off = 0x00#6 ∨ off = 0x08#6 ∨ off = 0x0C#6) := by
  cases we <;> simp [legal, and_assoc, or_assoc]

/-- Every aligned offset of the map holds a register (20_memory.md R53). -/
theorem regAt_isSome {off : Offset} (halign : off.toNat % 4 = 0) (hmap : off.toNat ≤ 0x20) :
    ∃ r, regAt off = some r := by
  rw [← Option.isSome_iff_exists]
  revert off
  decide

/-- Every write to CTRL, OPA or OPB has a class (30_encoding.md R79). -/
theorem decodeWrite_isSome {off : Offset} (h : off = 0x00#6 ∨ off = 0x08#6 ∨ off = 0x0C#6) (d : Word) :
    ∃ i, decodeWrite off d = some i := by
  rcases h with rfl | rfl | rfl
  · exact ⟨decodeCommand d, rfl⟩
  · exact ⟨.wrOpa d, rfl⟩
  · exact ⟨.wrOpb d, rfl⟩

/-- A legal transaction decodes to an instruction: the converse of `legal_of_decodeFields`. -/
theorem decodeFields_of_legal {we : Bool} {size : BitVec 2} {off : Offset} (h : legal we size off = true) (d : Word) :
    ∃ i, decodeFields we size off d = .instr i := by
  obtain ⟨-, halign, hmap, hwritable⟩ := (legal_iff we size off).mp h
  cases we with
  | false =>
    obtain ⟨r, hr⟩ := regAt_isSome halign hmap
    exact ⟨readOf r, by simp [decodeFields, h, hr]⟩
  | true =>
    obtain ⟨i, hi⟩ := decodeWrite_isSome (hwritable rfl) d
    exact ⟨i, by simp [decodeFields, h, hi]⟩

/-- A transaction that is not legal is BUSERR, with the cause of 60_exceptions.md R160. -/
theorem decodeFields_of_not_legal {we : Bool} {size : BitVec 2} {off : Offset} (h : legal we size off = false)
    (d : Word) : decodeFields we size off d = .busErr (busErrorCause size off) := by
  simp [decodeFields, h]

/-- A byte of a register lies in the four bytes from the register's offset (20_memory.md R53). -/
theorem regAt_offset_add (r : Reg) {i : Nat} (hi : i < 4) :
    regAt ((r.offset + BitVec.ofNat 6 i) &&& 0x3C#6) = some r := by
  revert i
  cases r <;> decide

/-- Every register starts at a multiple of 4 (20_memory.md R53). -/
theorem offset_add_toNat_mod (r : Reg) {i : Nat} (hi : i < 4) : (r.offset + BitVec.ofNat 6 i).toNat % 4 = i := by
  revert i
  cases r <;> decide

end Sys2Proof

namespace Sys2Proof.Machine

/-- An instruction is answered with `err = 0` (20_memory.md R51). -/
theorem exec_resp_err {i : Instr} {s t : State} (h : exec i s = .next t) : t.resp.err = false := by
  cases hc : i.ctrlFields with
  | some f =>
    rw [exec_ctrlFields hc] at h
    cases h
    rfl
  | none =>
    rcases exec_of_not_ctrl hc s with ⟨_, _, he⟩ | ⟨_, _, he⟩ | ⟨_, _, he⟩ <;>
      · rw [he] at h
        cases h
        rfl

section Presented

variable {s : State} {a : Access} {rest : List Event} {off : Offset}
  (hin : s.inputs = .host a :: rest) (hoff : windowOffset s.params a.addr = some off)

include hin hoff

/-- A host access that decodes to an instruction is run, on the state with the event taken (30_encoding.md R79). -/
theorem step_host_of_instr {i : Instr} (hd : decodeFields a.we a.size off a.wdata = .instr i) :
    step s = exec i (s.withInputs rest) := by
  simp only [step, fetch_host hin, present, State.withInputs_params, hoff, Access.transaction, decode_packT, hd]

/-- A host access that decodes to BUSERR raises the bus error, on the state with the event taken (60_exceptions.md
R160). -/
theorem step_host_of_busErr {c : BusErrorCause} (hd : decodeFields a.we a.size off a.wdata = .busErr c) :
    step s = raiseBusError a.we a.size off c (s.withInputs rest) := by
  simp only [step, fetch_host hin, present, State.withInputs_params, hoff, Access.transaction, decode_packT, hd]

/-- A legal access is answered with `err = 0` (20_memory.md R52). -/
theorem step_host_of_legal (h : legal a.we a.size off = true) : ∃ t, step s = .next t ∧ t.resp.err = false := by
  obtain ⟨i, hi⟩ := decodeFields_of_legal h a.wdata
  obtain ⟨t, ht⟩ := exec_next i (s.withInputs rest)
  exact ⟨t, (step_host_of_instr hin hoff hi).trans ht, exec_resp_err ht⟩

/-- An access that is not legal changes nothing but the answer, whether or not the model faults it (60_exceptions.md
R160). -/
theorem step_host_of_not_legal (h : legal a.we a.size off = false) :
    step s = .next { s with inputs := rest, resp := .busError } ∨
    ∃ c, step s = .fault (.busError off c { s with inputs := rest, resp := .busError }) := by
  rw [step_host_of_busErr hin hoff (decodeFields_of_not_legal h a.wdata)]
  rcases raiseBusError_cases a.we a.size off (busErrorCause a.size off) (s.withInputs rest) with ⟨-, hb⟩ | ⟨-, hb⟩
  · exact .inr ⟨_, hb⟩
  · exact .inl hb

/-- A read that is not legal is faulted (20_memory.md R58, 60_exceptions.md R160). -/
theorem step_host_of_illegal_read (hwe : a.we = false) (h : legal a.we a.size off = false) :
    ∃ c, step s = .fault (.busError off c { s with inputs := rest, resp := .busError }) := by
  rw [step_host_of_busErr hin hoff (decodeFields_of_not_legal h a.wdata)]
  have hfaults : busErrorFaults a.we a.size off = true := by simp [busErrorFaults, hwe]
  rcases raiseBusError_cases a.we a.size off (busErrorCause a.size off) (s.withInputs rest) with ⟨-, hb⟩ | ⟨hf, -⟩
  · exact ⟨_, hb⟩
  · rw [hfaults] at hf
    cases hf

end Presented

/-- Settles O5: a legal access decodes to an instruction, which is answered with `err = 0`; any other raises the bus error,
which changes nothing but the answer, and of a read is a fault. -/
theorem onlyLegalTransactionsHaveEffect : Obligations.OnlyLegalTransactionsHaveEffect := by
  unfold Obligations.OnlyLegalTransactionsHaveEffect
  intro s a rest off hin hoff isLegal
  have hlegal : legal a.we a.size off = true ↔ isLegal := legal_iff a.we a.size off
  refine ⟨fun h => step_host_of_legal hin hoff (hlegal.mpr h), fun h => ?_⟩
  have hnot : legal a.we a.size off = false := Bool.eq_false_iff.mpr (mt hlegal.mp h)
  exact ⟨step_host_of_not_legal hin hoff hnot, fun hwe => step_host_of_illegal_read hin hoff hwe hnot, rfl, rfl⟩

/-- A read answers with the register's word and changes nothing else (20_memory.md R58). -/
theorem exec_readOf (r : Reg) (s : State) : exec (readOf r) s = .next { s with resp := .readData (readReg s r) } := by
  cases r <;> rfl

/-- A concatenation as a number: the upper part counts `2 ^ n` times. -/
theorem toNat_append_eq_add {m n : Nat} (x : BitVec m) (y : BitVec n) :
    (x ++ y).toNat = x.toNat * 2 ^ n + y.toNat := by
  rw [BitVec.toNat_append, ← Nat.shiftLeft_add_eq_or_of_lt y.isLt, Nat.shiftLeft_eq]

/-- The word of CTRL as a number: `OP << 8` (10_state.md R23). -/
theorem readReg_ctrl (s : State) : readReg s .ctrl = BitVec.ofNat 32 (s.op.toNat * 256) := by
  apply BitVec.eq_of_toNat_eq
  have hop := s.op.isLt
  simp only [readReg, toNat_append_eq_add, BitVec.toNat_ofNat]
  omega

/-- The word of STATUS as a number (10_state.md R24). -/
theorem readReg_status (s : State) :
    readReg s .status = BitVec.ofNat 32 (s.err.toNat * 16 + s.ovr.toNat * 8 + s.noinv.toNat * 4 + s.done.toNat * 2 +
      (if s.fsm = .run then 1 else 0)) := by
  have hbusy : s.busy.toNat = if s.fsm = .run then 1 else 0 := by
    cases h : s.fsm <;> simp [State.busy, h]
  apply BitVec.eq_of_toNat_eq
  have herr := s.err.isLt
  have hovr := s.ovr.toNat_lt
  have hnoinv := s.noinv.toNat_lt
  have hdone := s.done.toNat_lt
  have hbusy' := s.busy.toNat_lt
  simp only [readReg, statusWord, toNat_append_eq_add, BitVec.toNat_ofNat, BitVec.toNat_ofBool, ← hbusy]
  omega

/-- Settles O10: a read answers with `readReg`, and a read that is not legal is faulted with the answer of a bus error. -/
theorem readsAnswerTheRegister : Obligations.ReadsAnswerTheRegister := by
  unfold Obligations.ReadsAnswerTheRegister
  refine ⟨fun s => ?_, fun s a rest off hin hoff hwe hlegal => ?_⟩
  · rw [← readReg_ctrl, ← readReg_status]
    exact ⟨exec_readOf .ctrl s, exec_readOf .status s, exec_readOf .opa s, exec_readOf .opb s, exec_readOf .resG s,
      exec_readOf .resX s, exec_readOf .resY s, exec_readOf .resInv s, exec_readOf .iters s⟩
  · obtain ⟨c, hc⟩ := step_host_of_illegal_read hin hoff hwe (by rwa [hwe])
    exact ⟨c, _, hc, rfl⟩

/-- The byte at offset `off + i` of a register is its bits `8i` to `8i + 7` (20_memory.md R54). -/
theorem windowByte_offset_add (s : State) (r : Reg) {i : Nat} (hi : i < 4) :
    windowByte s (r.offset + BitVec.ofNat 6 i) = some ((readReg s r).extractLsb' (8 * i) 8) := by
  rw [windowByte, regAt_offset_add r hi, offset_add_toNat_mod r hi, Option.map_some]

/-- Settles O12: bit j of a byte that starts at bit `8i` is bit `8i + j`. -/
theorem windowBytesAreLittleEndian : Obligations.WindowBytesAreLittleEndian := by
  unfold Obligations.WindowBytesAreLittleEndian
  intro s r i j hi hj
  exact ⟨_, windowByte_offset_add s r hi, by rw [BitVec.getLsbD_extractLsb', decide_eq_true hj, Bool.true_and]⟩

end Sys2Proof.Machine
end

section
/-! The encoding (30_encoding.md R70 to R79): the control form, the reserved bits of a command word, the encoder on
decoded words, and the opcode table. -/

namespace Sys2Proof.Machine

/-- The control form runs CLR on the state with OP stored, and is answered (30_encoding.md R76). -/
theorem exec_ctrl (op : BitVec 3) (clr : Bool) (s : State) :
    exec (.ctrl op clr) s = .next ((applyClr clr (s.withOp op)).withResp .writeDone) :=
  exec_ctrlFields (startBit := false) rfl s

/-- Settles O15: what the control form leaves is CLR on the state with OP stored, in which no other field differs. -/
theorem controlFormStartsNothing : Obligations.ControlFormStartsNothing := by
  unfold Obligations.ControlFormStartsNothing
  refine ⟨fun s op => ⟨exec_ctrl op false s, exec_ctrl op true s⟩, ?_⟩
  rw [decode_packT]
  decide

end Sys2Proof.Machine

namespace Sys2Proof

/-- The decoder reads no reserved bit of a command word (30_encoding.md R74). -/
theorem decodeCommand_and_mask (d : Word) : decodeCommand (d &&& 0x00000703#32) = decodeCommand d := by
  have hop : (d &&& 0x00000703#32).extractLsb' 8 3 = d.extractLsb' 8 3 := by
    rw [BitVec.extractLsb'_and, show (0x00000703#32).extractLsb' 8 3 = BitVec.allOnes 3 by decide, BitVec.and_allOnes]
  simp only [decodeCommand, hop]
  simp

/-- CTRL reads 0 in every bit but 10:8 (10_state.md R23). -/
theorem readReg_ctrl_reserved (s : Machine.State) : Machine.readReg s .ctrl &&& ~~~ 0x00000700#32 = 0#32 := by
  have h : ∀ op : BitVec 3, 0#21 ++ op ++ 0#8 &&& ~~~ 0x00000700#32 = 0#32 := by decide
  exact h s.op

/-- Settles O4: a write to CTRL is decoded by `decodeCommand`, which reads no reserved bit, and a read of CTRL answers with
the word of OP. -/
theorem reservedBitsAreIgnored : Obligations.ReservedBitsAreIgnored := by
  unfold Obligations.ReservedBitsAreIgnored
  refine ⟨fun d => ?_, fun s => ⟨_, Machine.exec_readOf .ctrl s, readReg_ctrl_reserved s⟩⟩
  have hctrl (d : Word) : decodeFields true 2#2 0x00#6 d = .instr (decodeCommand d) := rfl
  rw [decode_packT, decode_packT, hctrl, hctrl, decodeCommand_and_mask]

/-- The command word of the fields of a word is the word with its reserved bits cleared (30_encoding.md R71, R74). -/
theorem commandWord_of_fields (d : Word) :
    commandWord (d.extractLsb' 8 3) (d.getLsbD 1) (d.getLsbD 0) = d &&& 0x00000703#32 := by
  have hmask : ∀ i < 32, (0x00000703#32).getLsbD i = decide (i < 2 ∨ 8 ≤ i ∧ i < 11) := by decide
  apply BitVec.eq_of_getLsbD_eq
  intro i hi
  rw [BitVec.getLsbD_and, hmask i hi]
  simp only [commandWord, BitVec.getLsbD_append, BitVec.getLsbD_ofBool, BitVec.getLsbD_extractLsb', BitVec.getLsbD_zero]
  interval_cases i <;> simp

/-- The encoder's word of a START (30_encoding.md R72). -/
theorem encode_startOf (op : BitVec 3) (clr : Bool) : encode (startOf op clr) = writeT .ctrl (commandWord op clr true) := by
  revert op clr
  decide

/-- Encoding a decoded command word clears its reserved bits. -/
theorem encode_decodeCommand (d : Word) : encode (decodeCommand d) = writeT .ctrl (d &&& 0x00000703#32) := by
  rw [← commandWord_of_fields]
  cases hstart : d.getLsbD 0 with
  | false =>
    have h : decodeCommand d = .ctrl (d.extractLsb' 8 3) (d.getLsbD 1) := by rw [decodeCommand, hstart]; rfl
    rw [h, encode]
  | true =>
    have h : decodeCommand d = startOf (d.extractLsb' 8 3) (d.getLsbD 1) := by rw [decodeCommand, hstart]; rfl
    rw [h, encode_startOf]

/-- The encoder's word of a read. -/
theorem encode_readOf (r : Reg) : encode (readOf r) = readT r := by
  cases r <;> rfl

/-- `regAt` inverts the register map. -/
theorem offset_of_regAt {off : Offset} {r : Reg} (h : regAt off = some r) : off = r.offset := by
  revert off
  cases r <;> decide

/-- The mask of the data bits that the decoder reads: none of a read, all but the reserved bits of a command word, and all
of any other write (30_encoding.md R70, R74). -/
def readMask (we : Bool) (off : Offset) : Word :=
  if we then if off = 0x00#6 then 0x00000703#32 else BitVec.allOnes 32 else 0#32

/-- All data bits of an operand write are read (20_memory.md R59). -/
theorem and_readMask_operand {off : Offset} (h : off ≠ 0x00#6) (d : Word) : d &&& readMask true off = d := by
  rw [readMask, if_pos rfl, if_neg h, BitVec.and_allOnes]

/-- The bits of a transaction word that are not read are those of its data outside `readMask`. -/
theorem ignoredMask_packT (we : Bool) (size : BitVec 2) (off : Offset) (d : Word) :
    (packT we size off d).ignoredMask = packT false 0#2 0#6 (~~~ readMask we off) := by
  rw [TWord.ignoredMask, packT_we, packT_off, readMask]
  cases we with
  | false =>
    simp only [↓reduceIte, Bool.false_eq_true]
    decide
  | true =>
    by_cases hoff : off = 0x00#6
    · simp only [hoff, ↓reduceIte]
      decide
    · simp only [hoff, ↓reduceIte]
      decide

/-- Clearing the bits that are not read keeps the fields but the data (30_encoding.md R70). -/
theorem packT_clear_ignored (we : Bool) (size : BitVec 2) (off : Offset) (d : Word) :
    packT we size off d &&& ~~~ (packT we size off d).ignoredMask = packT we size off (d &&& readMask we off) := by
  rw [ignoredMask_packT]
  apply BitVec.eq_of_getLsbD_eq
  intro i hi
  simp only [BitVec.getLsbD_and, BitVec.getLsbD_not, packT_getLsbD, hi]
  by_cases h : i < 32 <;> simp [h]

/-- The bits that are not read do not choose which bits are not read. -/
theorem ignoredMask_clear_ignored (t : TWord) : (t &&& ~~~ t.ignoredMask).ignoredMask = t.ignoredMask := by
  rw [← packT_of_fields t, packT_clear_ignored, ignoredMask_packT, ignoredMask_packT]

/-- The word of a decoded read is that of its register (20_memory.md R53). -/
theorem encode_of_decodeFields_read {size : BitVec 2} {off : Offset} {d : Word} {i : Instr}
    (h : decodeFields false size off d = .instr i) : encode i = packT false size off 0#32 := by
  have hlegal := legal_of_decodeFields h
  obtain ⟨rfl, halign, hmap, -⟩ := (legal_iff _ _ _).mp hlegal
  obtain ⟨r, hr⟩ := regAt_isSome halign hmap
  obtain rfl : readOf r = i := by simpa [decodeFields, hlegal, hr] using h
  rw [encode_readOf, readT, ← offset_of_regAt hr]

/-- The word of a decoded write holds the data that the decoder reads. -/
theorem encode_of_decodeFields_write {size : BitVec 2} {off : Offset} {d : Word} {i : Instr}
    (h : decodeFields true size off d = .instr i) : encode i = packT true size off (d &&& readMask true off) := by
  obtain ⟨rfl, -, -, hwritable⟩ := (legal_iff _ _ _).mp (legal_of_decodeFields h)
  rcases hwritable rfl with rfl | rfl | rfl <;> injection h with h <;> subst h
  · exact encode_decodeCommand d
  · rw [and_readMask_operand (by decide), encode, writeT, Reg.offset]
  · rw [and_readMask_operand (by decide), encode, writeT, Reg.offset]

/-- Encoding a decoded word clears the bits that are not read (30_encoding.md R79). -/
theorem encode_of_decode {t : TWord} {i : Instr} (h : decode t = .instr i) : encode i = t &&& ~~~ t.ignoredMask := by
  rw [← packT_of_fields t, packT_clear_ignored]
  rw [decode] at h
  cases hwe : t.getLsbD 40 with
  | false =>
    rw [hwe] at h
    rw [encode_of_decodeFields_read h, readMask, if_neg Bool.false_ne_true, BitVec.and_zero]
  | true =>
    rw [hwe] at h
    rw [encode_of_decodeFields_write h]

/-- BUSERR is every word that is not legal (20_memory.md R52). -/
theorem decode_busErr_iff (t : TWord) :
    (∃ c, decode t = .busErr c) ↔ legal (t.getLsbD 40) (t.extractLsb' 38 2) (t.extractLsb' 32 6) = false := by
  refine ⟨fun ⟨c, hc⟩ => Bool.eq_false_iff.mpr fun hlegal => ?_, fun h => ⟨_, decodeFields_of_not_legal h _⟩⟩
  obtain ⟨i, hi⟩ := decodeFields_of_legal hlegal (t.extractLsb' 0 32)
  rw [decode, hi] at hc
  cases hc

theorem TableRow.matches_iff (r : TableRow) (t : TWord) : r.matches t = true ↔ t &&& r.mask = r.pattern :=
  beq_iff_eq

/-- Every row of the table reads all bits of we, size and off. -/
theorem row_mask_fields : ∀ r ∈ opcodeTable, r.mask.getLsbD 40 = true ∧
    r.mask.extractLsb' 38 2 = BitVec.allOnes 2 ∧ r.mask.extractLsb' 32 6 = BitVec.allOnes 6 := by
  decide

/-- Every row of the table stands for legal transactions. -/
theorem row_pattern_legal : ∀ r ∈ opcodeTable,
    legal (r.pattern.getLsbD 40) (r.pattern.extractLsb' 38 2) (r.pattern.extractLsb' 32 6) = true := by
  decide

/-- No row of the table reads a bit that the decoder does not read. -/
theorem row_mask_and_ignored : ∀ r ∈ opcodeTable, r.mask &&& r.pattern.ignoredMask = 0#41 := by
  decide

theorem opcodeTable_nodup : opcodeTable.Nodup := by
  decide

theorem row_mem_opcodeTable (i : Instr) : i.row ∈ opcodeTable := by
  cases i <;> simp [opcodeTable, Instr.row]

/-- The encoder's word matches the row of its instruction, and no other row. -/
theorem tableRow_statement (i : Instr) : Laws.TableRow.Statement i := by
  cases i with
  | gcd clr => exact Laws.TableRow.gcd clr
  | egcd clr => exact Laws.TableRow.egcd clr
  | modinv clr => exact Laws.TableRow.modinv clr
  | illegalOp3 clr => exact Laws.TableRow.illegalOp3 clr
  | illegalOp4 clr => exact Laws.TableRow.illegalOp4 clr
  | illegalOp5 clr => exact Laws.TableRow.illegalOp5 clr
  | illegalOp6 clr => exact Laws.TableRow.illegalOp6 clr
  | illegalOp7 clr => exact Laws.TableRow.illegalOp7 clr
  | ctrl op clr => exact Laws.TableRow.ctrl op clr
  | wrOpa d => exact Laws.TableRow.wrOpa d
  | wrOpb d => exact Laws.TableRow.wrOpb d
  | rdCtrl => exact Laws.TableRow.rdCtrl
  | rdStatus => exact Laws.TableRow.rdStatus
  | rdOpa => exact Laws.TableRow.rdOpa
  | rdOpb => exact Laws.TableRow.rdOpb
  | rdResG => exact Laws.TableRow.rdResG
  | rdResX => exact Laws.TableRow.rdResX
  | rdResY => exact Laws.TableRow.rdResY
  | rdResInv => exact Laws.TableRow.rdResInv
  | rdIters => exact Laws.TableRow.rdIters

/-- A mask sees no difference when bits outside it are cleared. -/
theorem clear_and_of_disjoint {m g : TWord} (h : m &&& g = 0#41) (t : TWord) : t &&& ~~~ g &&& m = t &&& m := by
  apply BitVec.eq_of_getLsbD_eq
  intro j hj
  have hbit : (m.getLsbD j && g.getLsbD j) = false := by rw [← BitVec.getLsbD_and, h, BitVec.getLsbD_zero]
  rw [BitVec.getLsbD_and, BitVec.getLsbD_and, BitVec.getLsbD_and, BitVec.getLsbD_not, decide_eq_true hj]
  cases hm : m.getLsbD j with
  | false => simp
  | true => simpa [hm] using fun _ => hbit

section Row

variable {r : TableRow} (hr : r ∈ opcodeTable)

include hr

/-- A word that matches a row has the row's we, size and off. -/
theorem fields_of_matches {t : TWord} (h : r.matches t = true) :
    t.getLsbD 40 = r.pattern.getLsbD 40 ∧ t.extractLsb' 38 2 = r.pattern.extractLsb' 38 2 ∧
      t.extractLsb' 32 6 = r.pattern.extractLsb' 32 6 := by
  obtain ⟨hwe, hsize, hoff⟩ := row_mask_fields r hr
  rw [← (TableRow.matches_iff r t).mp h, BitVec.getLsbD_and, BitVec.extractLsb'_and, BitVec.extractLsb'_and, hwe, hsize,
    hoff, Bool.and_true, BitVec.and_allOnes, BitVec.and_allOnes]
  exact ⟨rfl, rfl, rfl⟩

/-- Only a legal word matches a row (30_encoding.md R79). -/
theorem legal_of_matches {t : TWord} (h : r.matches t = true) :
    legal (t.getLsbD 40) (t.extractLsb' 38 2) (t.extractLsb' 32 6) = true := by
  obtain ⟨hwe, hsize, hoff⟩ := fields_of_matches hr h
  rw [hwe, hsize, hoff]
  exact row_pattern_legal r hr

/-- Of a word that matches a row, the row reads no bit that the decoder does not read. -/
theorem mask_and_ignored_of_matches {t : TWord} (h : r.matches t = true) : r.mask &&& t.ignoredMask = 0#41 := by
  obtain ⟨hwe, -, hoff⟩ := fields_of_matches hr h
  have hignored : t.ignoredMask = r.pattern.ignoredMask := by rw [TWord.ignoredMask, hwe, hoff, ← TWord.ignoredMask]
  rw [hignored, row_mask_and_ignored r hr]

/-- The bits that are not read do not decide which row a word matches. -/
theorem matches_clear_ignored (t : TWord) : r.matches (t &&& ~~~ t.ignoredMask) = r.matches t := by
  have hclear (h : r.mask &&& t.ignoredMask = 0#41) : t &&& ~~~ t.ignoredMask &&& r.mask = t &&& r.mask :=
    clear_and_of_disjoint h t
  rw [Bool.eq_iff_iff]
  constructor <;> intro h
  · have hmask := mask_and_ignored_of_matches hr h
    rw [ignoredMask_clear_ignored] at hmask
    rwa [TableRow.matches_iff, ← hclear hmask, ← TableRow.matches_iff]
  · rwa [TableRow.matches_iff, hclear (mask_and_ignored_of_matches hr h), ← TableRow.matches_iff]

/-- A decoded word matches the row of its instruction, and no other row (30_encoding.md R79). -/
theorem matches_iff_of_decode {t : TWord} {i : Instr} (h : decode t = .instr i) : r.matches t = true ↔ r = i.row := by
  obtain ⟨hself, honly⟩ := tableRow_statement i
  rw [← matches_clear_ignored hr t, ← encode_of_decode h]
  exact ⟨honly r hr, fun heq => heq ▸ hself⟩

end Row

/-- BUSERR has no row: it is every word that matches none (30_encoding.md R79). -/
theorem decode_busErr_iff_no_row (t : TWord) :
    (∃ c, decode t = .busErr c) ↔ ∀ r ∈ opcodeTable, r.matches t = false := by
  constructor
  · intro h r hr
    refine Bool.eq_false_iff.mpr fun hmatch => ?_
    rw [decode_busErr_iff, legal_of_matches hr hmatch] at h
    cases h
  · intro h
    cases hd : decode t with
    | busErr c => exact ⟨c, rfl⟩
    | instr i =>
      have hmem := row_mem_opcodeTable i
      have hmatch := (matches_iff_of_decode hmem hd).mpr rfl
      rw [h _ hmem] at hmatch
      cases hmatch

/-- A word matches at most one row (30_encoding.md R79). -/
theorem length_filter_matches_le (t : TWord) : (opcodeTable.filter (fun r => r.matches t)).length ≤ 1 := by
  cases hd : decode t with
  | busErr c =>
    have hnone := (decode_busErr_iff_no_row t).mp ⟨c, hd⟩
    simp [List.filter_eq_nil_iff.mpr fun r hr => Bool.eq_false_iff.mp (hnone r hr)]
  | instr i =>
    have hrow : ∀ r ∈ opcodeTable.filter (fun r => r.matches t), r = i.row := fun r hr => by
      obtain ⟨hmem, hmatch⟩ := List.mem_filter.mp hr
      exact (matches_iff_of_decode hmem hd).mp hmatch
    rw [← List.nodup_replicate (a := i.row), ← List.eq_replicate_of_mem hrow]
    exact opcodeTable_nodup.filter _

/-- Settles O2: the encoder's word of a decoded instruction is the word with the bits that are not read cleared, and no row
reads those, so that the rows the word matches are those of the encoder's word; an illegal word has the fields of no row. -/
theorem decoderMatchesOpcodeTable : Obligations.DecoderMatchesOpcodeTable := by
  unfold Obligations.DecoderMatchesOpcodeTable
  intro t
  refine ⟨length_filter_matches_le t, decode_busErr_iff_no_row t, decode_busErr_iff t, fun i hi => ?_⟩
  exact ⟨(matches_iff_of_decode (row_mem_opcodeTable i) hi).mpr rfl, encode_of_decode hi⟩

end Sys2Proof
end

section
/-! The source's recursion (00_scope.md R7, R8, 42_egcd.md R131): floor division, the defining equations of
`extendedEuclid` and `divisions`, which do not see the depth of their definitions, and the bound on the divisions
(40_engine.md R97). -/

namespace Sys2Proof.Machine

/-- The remainder is 0 or has the sign of the divisor, and is smaller (00_scope.md R7). -/
theorem fmod_range (a : Int) {b : Int} (hb : b ≠ 0) :
    (0 ≤ fmod a b ∧ fmod a b < b) ∨ (b < fmod a b ∧ fmod a b ≤ 0) := by
  rw [fmod_eq]
  rcases lt_or_gt_of_ne hb with hneg | hpos
  · obtain ⟨-, hrange⟩ := (Int.fdiv_fmod_unique' hneg).mp ⟨rfl, rfl⟩
    exact .inr hrange
  · exact .inl ⟨Int.fmod_nonneg_of_pos a hpos, Int.fmod_lt_of_pos a hpos⟩

theorem natAbs_fmod_lt (a : Int) {b : Int} (hb : b ≠ 0) : (fmod a b).natAbs < b.natAbs := by
  have hrange := fmod_range a hb
  omega

/-- A number loses more than half its magnitude to a smaller divisor of its sign: the quotient is at least 1. -/
theorem two_mul_natAbs_fmod_lt {m r : Int} (h : (0 < r ∧ r < m) ∨ (m < r ∧ r < 0)) :
    2 * (fmod m r).natAbs < m.natAbs := by
  have hdef : fmod m r = m - r * fdiv m r := rfl
  rcases h with ⟨hpos, hlt⟩ | ⟨hlt, hneg⟩
  · have hrem : 0 ≤ fmod m r ∧ fmod m r < r := by have := fmod_range m hpos.ne'; omega
    have hq : 0 < fdiv m r := by by_contra hq; nlinarith
    have hmul : r ≤ r * fdiv m r := by nlinarith
    omega
  · have hrem : r < fmod m r ∧ fmod m r ≤ 0 := by have := fmod_range m hneg.ne; omega
    have hq : 0 < fdiv m r := by by_contra hq; nlinarith
    have hmul : r * fdiv m r ≤ r := by nlinarith
    omega

/-- A recursion along the Euclidean remainders does not depend on its depth, once this exceeds the modulus. -/
theorem eq_of_natAbs_lt_depth {α : Type} {F : Nat → Int → Int → α}
    (hzero : ∀ d e a, F (d + 1) a 0 = F (e + 1) a 0)
    (hlevel : ∀ d e a m, m ≠ 0 → F d m (fmod a m) = F e m (fmod a m) → F (d + 1) a m = F (e + 1) a m)
    {d e : Nat} {a m : Int} (hd : m.natAbs < d) (he : m.natAbs < e) : F d a m = F e a m := by
  induction d generalizing e a m with
  | zero => omega
  | succ d ih =>
    obtain _ | e := e
    · omega
    · by_cases hm : m = 0
      · rw [hm]
        exact hzero d e a
      · have hlt := natAbs_fmod_lt a hm
        exact hlevel d e a m hm (ih (by omega) (by omega))

theorem extendedEuclidTo_eq_of_lt {d e : Nat} {a m : Int} (hd : m.natAbs < d) (he : m.natAbs < e) :
    extendedEuclidTo d a m = extendedEuclidTo e a m :=
  eq_of_natAbs_lt_depth (fun _ _ _ => rfl) (fun d e a m hm h => by simp only [extendedEuclidTo, if_neg hm, h]) hd he

@[simp] theorem extendedEuclid_zero (a : Int) : extendedEuclid a 0 = (a, 1, 0) := rfl

/-- One level of the recursion (42_egcd.md R131). -/
theorem extendedEuclid_of_ne_zero {a m g x y : Int} (hm : m ≠ 0) (h : extendedEuclid m (fmod a m) = (g, x, y)) :
    extendedEuclid a m = (g, y, x - fdiv a m * y) := by
  have hdepth : extendedEuclidTo m.natAbs m (fmod a m) = (g, x, y) :=
    (extendedEuclidTo_eq_of_lt (natAbs_fmod_lt a hm) (Nat.lt_succ_self _)).trans h
  simp only [extendedEuclid, extendedEuclidTo, if_neg hm, hdepth]

theorem divisionsTo_eq_of_lt {d e : Nat} {a m : Int} (hd : m.natAbs < d) (he : m.natAbs < e) :
    divisionsTo d a m = divisionsTo e a m :=
  eq_of_natAbs_lt_depth (fun _ _ _ => rfl) (fun d e a m hm h => by simp only [divisionsTo, if_neg hm, h]) hd he

@[simp] theorem divisions_zero (a : Int) : divisions a 0 = 0 := rfl

/-- A non-zero modulus costs one division more than the next pair. -/
theorem divisions_of_ne_zero (a : Int) {m : Int} (hm : m ≠ 0) : divisions a m = divisions m (fmod a m) + 1 := by
  have hdepth : divisionsTo m.natAbs m (fmod a m) = divisions m (fmod a m) :=
    divisionsTo_eq_of_lt (natAbs_fmod_lt a hm) (Nat.lt_succ_self _)
  rw [divisions, divisionsTo, if_neg hm, hdepth]

/-- There is at most one division, or after two the modulus has less than half its magnitude. -/
theorem divisions_le_one_or_halves (a m : Int) :
    divisions a m ≤ 1 ∨ ∃ a' m', divisions a m = divisions a' m' + 2 ∧ 2 * m'.natAbs < m.natAbs := by
  by_cases hm : m = 0
  · simp [hm]
  · by_cases hr : fmod a m = 0
    · simp [divisions_of_ne_zero a hm, hr]
    · have hrange := fmod_range a hm
      refine .inr ⟨fmod a m, fmod m (fmod a m), ?_, two_mul_natAbs_fmod_lt (by omega)⟩
      rw [divisions_of_ne_zero a hm, divisions_of_ne_zero m hr]

/-- Two divisions for each halving of the modulus. -/
theorem divisions_le_of_natAbs_le_two_pow {k : Nat} {a m : Int} (hm : m.natAbs ≤ 2 ^ (k + 1)) :
    divisions a m ≤ 2 * k + 2 := by
  induction k generalizing a m with
  | zero =>
    rcases divisions_le_one_or_halves a m with hone | ⟨a', m', hdiv, hhalf⟩
    · omega
    · obtain rfl : m' = 0 := by omega
      simp [hdiv]
  | succ k ih =>
    rcases divisions_le_one_or_halves a m with hone | ⟨a', m', hdiv, hhalf⟩
    · omega
    · have hrest : divisions a' m' ≤ 2 * k + 2 := ih (by rw [pow_succ] at hm; omega)
      omega

theorem InRange.natAbs_le {W : Nat} {i : Int} (h : InRange W i) : i.natAbs ≤ 2 ^ (W - 1) := by
  obtain ⟨hlow, hhigh⟩ := h
  zify
  exact abs_le.mpr ⟨hlow, hhigh.le⟩

/-- The bound of 40_engine.md R97 for a W-bit modulus. -/
theorem divisions_le_of_inRange {W : Nat} {b : Int} (hW : 2 ≤ W) (hb : InRange W b) (a : Int) :
    divisions a b ≤ 2 * W - 2 := by
  obtain ⟨k, rfl⟩ := Nat.exists_eq_add_of_le' hW
  have hbound : divisions a b ≤ 2 * k + 2 := divisions_le_of_natAbs_le_two_pow hb.natAbs_le
  omega

@[simp] theorem gcdN_zero (a : Int) : gcdN a 0 = a.natAbs := Int.gcd_zero_right a

/-- A division keeps the gcd (41_gcd.md R121). -/
theorem gcdN_fmod (a b : Int) : gcdN b (fmod a b) = gcdN a b := by
  rw [gcdN, gcdN, fmod, Int.gcd_sub_mul_left_right, Int.gcd_comm]

end Sys2Proof.Machine
end

section
/-! What the iterations of a command keep, from acceptance on (40_engine.md R91, R95, R99): the coefficient pairs, the
triple of the recursion, the divisions still to come, and the gcd. -/

namespace Sys2Proof.Machine

@[simp] theorem iterate_r0 (w : Working) : (iterate w).r0 = w.r1 := rfl
@[simp] theorem iterate_s0 (w : Working) : (iterate w).s0 = w.s1 := rfl
@[simp] theorem iterate_t0 (w : Working) : (iterate w).t0 = w.t1 := rfl
@[simp] theorem iterate_s1 (w : Working) : (iterate w).s1 = w.s0 - fdiv w.r0 w.r1 * w.s1 := rfl
@[simp] theorem iterate_t1 (w : Working) : (iterate w).t1 = w.t0 - fdiv w.r0 w.r1 * w.t1 := rfl
@[simp] theorem iterate_k (w : Working) : (iterate w).k = w.k + 1#7 := rfl

/-- The new divisor is the remainder of the floor division (40_engine.md R95). -/
@[simp] theorem iterate_r1 (w : Working) : (iterate w).r1 = fmod w.r0 w.r1 := by
  rw [fmod, mul_comm]
  rfl

/-- What holds at acceptance and is kept by every iteration with a non-zero divisor holds of what a command reaches. -/
theorem Working.ReachedBy.induct {P : Nat → Working → Prop} (hstart : ∀ c a b, P 0 (startWorking c a b))
    (hiterate : ∀ n w, w.r1 ≠ 0 → P n w → P (n + 1) (Machine.iterate w)) {w : Working} {n : Nat} (h : w.ReachedBy n) :
    P n w := by
  obtain ⟨hw, hdivisor⟩ := h
  rw [hw]
  clear hw
  induction n with
  | zero => exact hstart _ _ _
  | succ n ih =>
    exact hiterate n _ (hdivisor n (Nat.lt_succ_self n)) (ih fun j hj => hdivisor j (Nat.lt_succ_of_lt hj))

/-- The loop invariants of 40_engine.md R99. -/
theorem Working.ReachedBy.linear_combinations {w : Working} {n : Nat} (h : w.ReachedBy n) :
    w.r0 = w.a * w.s0 + w.b * w.t0 ∧ w.r1 = w.a * w.s1 + w.b * w.t1 := by
  refine h.induct (P := fun _ w => w.r0 = w.a * w.s0 + w.b * w.t0 ∧ w.r1 = w.a * w.s1 + w.b * w.t1)
    (fun c a b => by simp [startWorking]) (fun n w _ hw => ?_)
  obtain ⟨h0, h1⟩ := hw
  refine ⟨h1, ?_⟩
  rw [iterate_r1, iterate_a, iterate_b, iterate_s1, iterate_t1, fmod]
  linear_combination h0 - fdiv w.r0 w.r1 * h1

/-- What a triple for the current remainders says of the operands: the coefficient pairs put in for the remainders. -/
def Working.unwind (w : Working) : Int × Int × Int → Int × Int × Int
  | (g, x, y) => (g, x * w.s0 + y * w.s1, x * w.t0 + y * w.t1)

theorem Working.unwind_eq (w : Working) (g x y : Int) :
    w.unwind (g, x, y) = (g, x * w.s0 + y * w.s1, x * w.t0 + y * w.t1) := rfl

/-- At acceptance the remainders are the operands. -/
theorem unwind_startWorking (c : Command) (a b : Int) (p : Int × Int × Int) : (startWorking c a b).unwind p = p := by
  obtain ⟨g, x, y⟩ := p
  simp [Working.unwind_eq, startWorking]

/-- An iteration is one level of the recursion (42_egcd.md R131). -/
theorem unwind_iterate {w : Working} (h : w.r1 ≠ 0) :
    (iterate w).unwind (extendedEuclid (iterate w).r0 (iterate w).r1) = w.unwind (extendedEuclid w.r0 w.r1) := by
  rw [iterate_r0, iterate_r1]
  rcases hnext : extendedEuclid w.r1 (fmod w.r0 w.r1) with ⟨g, x, y⟩
  rw [extendedEuclid_of_ne_zero h hnext, Working.unwind_eq, Working.unwind_eq, iterate_s0, iterate_s1,
    iterate_t0, iterate_t1]
  congr 2 <;> ring

/-- The recursion on the current remainders, unwound, is the recursion on the operands. -/
theorem Working.ReachedBy.unwind_extendedEuclid {w : Working} {n : Nat} (h : w.ReachedBy n) :
    w.unwind (extendedEuclid w.r0 w.r1) = extendedEuclid w.a w.b :=
  h.induct (P := fun _ w => w.unwind (extendedEuclid w.r0 w.r1) = extendedEuclid w.a w.b)
    (fun c a b => unwind_startWorking c a b _) (fun _ _ h1 hw => (unwind_iterate h1).trans hw)

/-- The iterations made and the divisions still to come are the divisions of the operands. -/
theorem Working.ReachedBy.add_divisions {w : Working} {n : Nat} (h : w.ReachedBy n) :
    n + divisions w.r0 w.r1 = divisions w.a w.b := by
  refine h.induct (P := fun n w => n + divisions w.r0 w.r1 = divisions w.a w.b)
    (fun c a b => Nat.zero_add _) (fun n w h1 hw => ?_)
  rw [divisions_of_ne_zero w.r0 h1] at hw
  rw [iterate_r0, iterate_r1, iterate_a, iterate_b]
  omega

theorem Working.ReachedBy.gcdN_remainders {w : Working} {n : Nat} (h : w.ReachedBy n) :
    gcdN w.r0 w.r1 = gcdN w.a w.b :=
  h.induct (P := fun _ w => gcdN w.r0 w.r1 = gcdN w.a w.b) (fun _ _ _ => rfl)
    (fun _ w _ hw => by rw [iterate_r0, iterate_r1, gcdN_fmod, hw, iterate_a, iterate_b])

/-- The counter holds the number of iterations, in its 7 bits. -/
theorem Working.ReachedBy.k_eq {w : Working} {n : Nat} (h : w.ReachedBy n) : w.k = BitVec.ofNat 7 n :=
  h.induct (P := fun n w => w.k = BitVec.ofNat 7 n) (fun _ _ _ => rfl)
    (fun n w _ hw => by rw [iterate_k, hw, BitVec.ofNat_add])

/-- The completion is reached with the triple of the recursion (40_engine.md R99). -/
theorem Working.ReachedBy.triple_eq {w : Working} {n : Nat} (h : w.ReachedBy n) (h1 : w.r1 = 0) :
    (w.r0, w.s0, w.t0) = extendedEuclid w.a w.b := by
  rw [← h.unwind_extendedEuclid, h1, extendedEuclid_zero, unwind_eq]
  simp

/-- The completion is reached with the gcd in magnitude (41_gcd.md R121). -/
theorem Working.ReachedBy.natAbs_r0_eq {w : Working} {n : Nat} (h : w.ReachedBy n) (h1 : w.r1 = 0) :
    w.r0.natAbs = gcdN w.a w.b := by
  rw [← h.gcdN_remainders, h1, gcdN_zero]

/-- The completion is reached after as many iterations as there are divisions (40_engine.md R97), and the counter did
not wrap. -/
theorem Working.ReachedBy.k_toNat_eq {w : Working} {n W : Nat} (h : w.ReachedBy n) (h1 : w.r1 = 0) (hlow : 4 ≤ W)
    (hhigh : W ≤ 32) (hb : InRange W w.b) : w.k.toNat = divisions w.a w.b := by
  have hn : n + 0 = divisions w.a w.b := by rw [← h.add_divisions, h1, divisions_zero]
  have hbound := divisions_le_of_inRange (W := W) (by omega) hb w.a
  rw [h.k_eq, BitVec.toNat_ofNat]
  omega

/-- Settles O30: the iterations keep the loop invariants, and they keep that the recursion on the current remainders,
unwound, is the recursion on the operands; at `r1 = 0` this says that the triple is reached. -/
theorem iterationEqualsRecursion : Obligations.IterationEqualsRecursion := by
  unfold Obligations.IterationEqualsRecursion
  rintro w ⟨n, h⟩
  obtain ⟨h0, h1⟩ := h.linear_combinations
  exact ⟨h0, h1, h.triple_eq⟩

end Sys2Proof.Machine
end

section
/-! The steps of a running command: the engine's (40_engine.md R94 to R96), and the host's and a reset, which leave its
results alone or abandon it (R92, R93, R100, 70_reset_and_hazards.md R180). -/

namespace Sys2Proof.Machine

/-- Where the engine moves, its step is the step of the machine. -/
theorem step_of_engineMoves {s : State} (h : s.EngineMoves) :
    step s = .next (engineStep (s.withInputs s.inputs.tail)) := by
  rcases h with hnil | ⟨rest, hcons⟩
  · rw [step, fetch_nil hnil, hnil, List.tail_nil, ← hnil, State.withInputs_self]
  · rw [step, fetch_engine hcons, hcons, List.tail_cons]

/-- Settles O24: the engine's step in RUN is `iterate`, whose quotient is the floor quotient. -/
theorem iterationIsOneFloorDivision : Obligations.IterationIsOneFloorDivision := by
  unfold Obligations.IterationIsOneFloorDivision
  refine ⟨fun s hmoves hrun h1 => ⟨fdiv s.wk.r0 s.wk.r1, ?_, ?_⟩, fun w hr0 hr1 hs0 hs1 ht0 ht1 => ?_⟩
  · have hrange := fmod_range s.wk.r0 h1
    rwa [fmod, mul_comm] at hrange
  · rw [step_of_engineMoves hmoves, engineStep_iterate (s := s.withInputs s.inputs.tail) hrun h1]
    rfl
  · have hq : fdiv 240 46 = 5 ∧ fmod 240 46 = 10 := by decide
    simp [hr0, hr1, hs0, hs1, ht0, ht1, hq]

/-- DONE and the flags of a result are 0, as in every legal RUN state (40_engine.md R100). -/
def State.FlagsClear (s : State) : Prop := s.done = false ∧ s.noinv = false ∧ s.err = errNone

theorem State.RunFits.flagsClear {s : State} (h : s.RunFits) : s.FlagsClear := by
  obtain ⟨hdone, hnoinv, herr, -⟩ := h
  exact ⟨hdone, hnoinv, herr⟩

/-- The inverse of MODINV with NOINV and ERR, stored on clear flags, is a function of the triple and the modulus. -/
theorem storeInverse_eq {s : State} (hclear : s.FlagsClear) :
    storeInverse s = { s with
      resInv := (inverseResult s.wk.r0 s.wk.s0 s.wk.b).1
      noinv := (inverseResult s.wk.r0 s.wk.s0 s.wk.b).2.1
      err := (inverseResult s.wk.r0 s.wk.s0 s.wk.b).2.2 } := by
  obtain ⟨-, hnoinv, herr⟩ := hclear
  rcases storeInverse_cases s with ⟨h0, h⟩ | ⟨h0, hb, h⟩ | ⟨h0, hb, h⟩ <;> simp [inverseResult, *]

/-- A completion that holds the triple, the gcd and the count of the source's functions writes the results of the
command on the latched operands (40_engine.md R93, R96). -/
theorem complete_results {s : State} (hclear : s.FlagsClear)
    (htriple : (s.wk.r0, s.wk.s0, s.wk.t0) = extendedEuclid s.wk.a s.wk.b)
    (hgcd : s.wk.r0.natAbs = gcdN s.wk.a s.wk.b) (hk : s.wk.k.toNat = divisions s.wk.a s.wk.b) :
    (complete s).results = commandResults s.params.W s.wk.op s.wk.a s.wk.b := by
  have hinverse := storeInverse_eq (s := storeTriple s) hclear
  obtain ⟨-, hnoinv, herr⟩ := hclear
  unfold complete commandComplete commandResults
  rw [← htriple, ← hgcd, ← hk]
  cases s.wk.op with
  | gcd => simp [State.results, gcdComplete, hnoinv, herr]
  | egcd => simp [State.results, egcdComplete, storeTriple, hnoinv, herr]
  | modinv =>
    simp only [modinvComplete, hinverse]
    rfl

/-- The engine's last step of a legal command (40_engine.md R93). -/
theorem complete_results_of_runFits {s : State} (hwf : s.params.wf = true) (hfits : s.RunFits) (h1 : s.wk.r1 = 0) :
    (complete s).results = commandResults s.params.W s.wk.op s.wk.a s.wk.b := by
  have hclear := hfits.flagsClear
  obtain ⟨-, -, -, -, hb, n, hreached⟩ := hfits
  obtain ⟨hlow, hhigh, -⟩ := (Params.wf_iff s.params).mp hwf
  exact complete_results hclear (hreached.triple_eq h1) (hreached.natAbs_r0_eq h1)
    (hreached.k_toNat_eq h1 hlow hhigh hb)

/-- `t` goes on with the command of `s`, and with its results. -/
def State.GoesOnFrom (t s : State) : Prop :=
  t.fsm = .run ∧ t.wk = s.wk ∧ t.done = false ∧ t.results = s.results

theorem start_of_run {s : State} (h : s.fsm = .run) (op : BitVec 3) : start op s = s.withOvr true := by
  simp only [start, h]

/-- In RUN a CTRL write finds the flags clear, and its START is dropped (40_engine.md R90). -/
theorem ctrlWrite_goesOnFrom {s : State} (hrun : s.fsm = .run) (hclear : s.FlagsClear) (op : BitVec 3)
    (clr startBit : Bool) : (ctrlWrite op clr startBit s).GoesOnFrom s := by
  obtain ⟨hdone, hnoinv, herr⟩ := hclear
  have hclr : (applyClr clr (s.withOp op)).GoesOnFrom s := by
    cases clr with
    | false => exact ⟨hrun, rfl, hdone, rfl⟩
    | true => exact ⟨hrun, rfl, rfl, by simp [State.results, applyClr, clearFlags, hnoinv, herr]⟩
  cases startBit with
  | false => exact hclr
  | true =>
    rw [ctrlWrite, if_pos rfl, start_of_run hclr.1]
    exact hclr

/-- In RUN no instruction ends the command or changes its results: an operand write does not reach the latched operands
(40_engine.md R92). -/
theorem exec_goesOnFrom {i : Instr} {s t : State} (hrun : s.fsm = .run) (hclear : s.FlagsClear)
    (h : exec i s = .next t) : t.GoesOnFrom s := by
  cases hc : i.ctrlFields with
  | some f =>
    obtain ⟨op, clr, startBit⟩ := f
    rw [exec_ctrlFields hc] at h
    obtain rfl := Host.Outcome.next.inj h
    exact ctrlWrite_goesOnFrom hrun hclear op clr startBit
  | none =>
    rcases exec_of_not_ctrl hc s with ⟨d, -, he⟩ | ⟨d, -, he⟩ | ⟨r, -, he⟩ <;> rw [he] at h <;>
      obtain rfl := Host.Outcome.next.inj h <;> exact ⟨hrun, rfl, hclear.1, rfl⟩

theorem sext32_zero (W : Nat) : sext32 W 0#32 = 0#32 := by
  simp [sext32, sint]

/-- After a reset every register reads 0 (70_reset_and_hazards.md R180). -/
theorem readReg_applyReset (req : Bool) (s : State) (r : Reg) : readReg (applyReset req s) r = 0#32 := by
  cases r with
  | ctrl => exact (by decide : readReg State.reset .ctrl = 0#32)
  | status => exact (by decide : readReg State.reset .status = 0#32)
  | opa => exact sext32_zero _
  | opb => exact sext32_zero _
  | _ => rfl

/-- Settles O31: of the steps that answer a next state, an iteration, an instruction and a bus error go on with the
command, a completion writes the results of the command on its operands, and a reset leaves registers that read 0. -/
theorem resultsDependOnLatchedOperandsOnly : Obligations.ResultsDependOnLatchedOperandsOnly := by
  unfold Obligations.ResultsDependOnLatchedOperandsOnly
  rintro s t ⟨hwf, -, -, -, -, -, -, -, hfits⟩ hrun hstep
  have hclear : s.FlagsClear := (hfits hrun).flagsClear
  have hdone : s.done = false := hclear.1
  rcases step_cases hstep with ⟨hmoves, rfl⟩ | ⟨req, rest, hin, rfl⟩ | ⟨i, l, -, hexec⟩ | ⟨a, rest, off, -, -, -, rfl⟩
  · by_cases h1 : s.wk.r1 = 0
    · rw [engineStep_complete (s := s.withInputs s.inputs.tail) hrun h1]
      exact .inr (.inl ⟨⟨hmoves, hrun, h1⟩, rfl, rfl, complete_ovr _,
        complete_results_of_runFits (s := s.withInputs s.inputs.tail) hwf (hfits hrun) h1⟩)
    · rw [engineStep_iterate (s := s.withInputs s.inputs.tail) hrun h1]
      exact .inl ⟨hrun, rfl, rfl, rfl, hdone, rfl⟩
  · exact .inr (.inr ⟨⟨req, rest, hin⟩, rfl, rfl, readReg_applyReset req _⟩)
  · obtain ⟨htrun, hwk, htdone, hresults⟩ := exec_goesOnFrom (s := s.withInputs l) hrun hclear hexec
    rw [hwk]
    exact .inl ⟨htrun, rfl, rfl, rfl, htdone, hresults⟩
  · exact .inl ⟨hrun, rfl, rfl, rfl, hdone, rfl⟩

end Sys2Proof.Machine
end

section
/-! Integers as W-bit results (30_encoding.md R73), and the gcd of the source's recursion: its magnitude, its range, and
where it reaches `2^(W-1)` (41_gcd.md R121, R122, 42_egcd.md R134). -/

namespace Sys2Proof.Machine

/-- A W-bit value is its own balanced residue modulo any `2^n` from `2^W` on. -/
theorem InRange.bmod_eq {W n : Nat} {i : Int} (h : InRange W i) (hW : 0 < W) (hn : W ≤ n) :
    Int.bmod i (2 ^ n) = i := by
  obtain ⟨hlow, hhigh⟩ := h
  have hdouble : (2 : Int) ^ W = 2 ^ (W - 1) * 2 := by rw [← pow_succ, Nat.sub_add_cancel hW]
  have hpow : (2 : Int) ^ W ≤ 2 ^ n := pow_le_pow_right₀ (by norm_num) hn
  apply Int.bmod_eq_of_le_mul_two <;> push_cast <;> omega

/-- A W-bit result is placed as the 32-bit pattern of its value. -/
theorem InRange.signedResult_eq {W : Nat} {i : Int} (h : InRange W i) (hW : 0 < W) (hhigh : W ≤ 32) :
    signedResult W i = BitVec.ofInt 32 i := by
  rw [Machine.signedResult_eq hhigh, h.bmod_eq hW le_rfl]

/-- Read as signed, a W-bit result has its value again. -/
theorem InRange.toInt_signedResult {W : Nat} {i : Int} (h : InRange W i) (hW : 0 < W) (hhigh : W ≤ 32) :
    (signedResult W i).toInt = i := by
  rw [h.signedResult_eq hW hhigh, BitVec.toInt_ofInt, h.bmod_eq hW hhigh]

/-- Of the W-bit values, `2^(W-1)` divides only 0 and `INT_MIN`. -/
theorem InRange.eq_zero_or_intMin_of_dvd {W : Nat} {i : Int} (h : InRange W i) (hdvd : 2 ^ (W - 1) ∣ i) :
    i = 0 ∨ i = -(2 ^ (W - 1)) := by
  obtain ⟨hlow, hhigh⟩ := h
  obtain ⟨q, rfl⟩ := hdvd
  have hpos : (0 : Int) < 2 ^ (W - 1) := by positivity
  have hq : -1 ≤ q ∧ q < 1 := ⟨by nlinarith, by nlinarith⟩
  obtain rfl | rfl : q = 0 ∨ q = -1 := by omega
  · exact .inl (mul_zero _)
  · exact .inr (mul_neg_one _)

/-- A remainder modulo a W-bit value is a W-bit value: it lies between 0 and the divisor. -/
theorem InRange.fmod_of_ne_zero {W : Nat} {b : Int} (h : InRange W b) (hb : b ≠ 0) (a : Int) :
    InRange W (fmod a b) := by
  obtain ⟨hlow, hhigh⟩ := h
  have hpos : (0 : Int) < 2 ^ (W - 1) := by positivity
  have hrange := fmod_range a hb
  exact ⟨by omega, by omega⟩

/-- Induction along the recursion of 42_egcd.md R131: each level has a smaller modulus in magnitude. -/
theorem euclid_induct {P : Int → Int → Prop} (hzero : ∀ a, P a 0)
    (hlevel : ∀ a m, m ≠ 0 → P m (fmod a m) → P a m) (a m : Int) : P a m := by
  by_cases hm : m = 0
  · rw [hm]
    exact hzero a
  · exact hlevel a m hm (euclid_induct hzero hlevel m (fmod a m))
termination_by m.natAbs
decreasing_by exact natAbs_fmod_lt a hm

/-- A level of the recursion hands on the gcd it gets. -/
theorem extendedEuclid_fst_of_ne_zero (a : Int) {m : Int} (hm : m ≠ 0) :
    (extendedEuclid a m).1 = (extendedEuclid m (fmod a m)).1 := by
  rcases hnext : extendedEuclid m (fmod a m) with ⟨g, x, y⟩
  rw [extendedEuclid_of_ne_zero hm hnext]

/-- The recursion's gcd is the gcd in magnitude (42_egcd.md R134). -/
theorem natAbs_extendedEuclid_fst (a m : Int) : (extendedEuclid a m).1.natAbs = gcdN a m := by
  induction a, m using euclid_induct with
  | hzero a => rw [extendedEuclid_zero, gcdN_zero]
  | hlevel a m hm ih => rw [extendedEuclid_fst_of_ne_zero a hm, ih, gcdN_fmod]

/-- The recursion's gcd of W-bit operands is a W-bit value (40_engine.md R98). -/
theorem InRange.extendedEuclid_fst {W : Nat} {a m : Int} (ha : InRange W a) (hm : InRange W m) :
    InRange W (extendedEuclid a m).1 := by
  induction a, m using euclid_induct with
  | hzero a => exact ha
  | hlevel a m hm0 ih =>
    rw [extendedEuclid_fst_of_ne_zero a hm0]
    exact ih hm (hm.fmod_of_ne_zero hm0 a)

/-- The bound of 41_gcd.md R122. -/
theorem gcdN_le_of_inRange {W : Nat} {a b : Int} (ha : InRange W a) (hb : InRange W b) : gcdN a b ≤ 2 ^ (W - 1) := by
  rw [← natAbs_extendedEuclid_fst]
  exact (ha.extendedEuclid_fst hb).natAbs_le

/-- The top value of the gcd is that of 0 and `INT_MIN` only, not both 0 (41_gcd.md R122). -/
theorem gcdN_eq_two_pow_iff {W : Nat} {a b : Int} (ha : InRange W a) (hb : InRange W b) :
    gcdN a b = 2 ^ (W - 1) ↔
      (a = 0 ∨ a = -(2 ^ (W - 1))) ∧ (b = 0 ∨ b = -(2 ^ (W - 1))) ∧ (a ≠ 0 ∨ b ≠ 0) := by
  constructor
  · intro hgcd
    have hcast : (gcdN a b : Int) = 2 ^ (W - 1) := by rw [hgcd]; push_cast; rfl
    refine ⟨ha.eq_zero_or_intMin_of_dvd (hcast ▸ Int.gcd_dvd_left a b),
      hb.eq_zero_or_intMin_of_dvd (hcast ▸ Int.gcd_dvd_right a b), ?_⟩
    have hne : gcdN a b ≠ 0 := by rw [hgcd]; positivity
    rwa [gcdN, Ne, Int.gcd_eq_zero_iff, not_and_or] at hne
  · have hmin : (2 ^ (W - 1) : Int).natAbs = 2 ^ (W - 1) := by rw [Int.natAbs_pow]; rfl
    rintro ⟨rfl | rfl, rfl | rfl, hne⟩
    · simp at hne
    · simp [gcdN, hmin]
    · simp [gcdN, hmin]
    · simp [gcdN, hmin]

/-- Settles O35: the completion is reached with the gcd in magnitude, a division keeps the gcd, and the rest are laws of
the gcd. -/
theorem remainderEndsAtTheGcd : Obligations.RemainderEndsAtTheGcd := by
  unfold Obligations.RemainderEndsAtTheGcd
  refine ⟨?_, fun a => ⟨gcdN_zero a, Int.gcd_zero_left a⟩, fun a b _ => (gcdN_fmod a b).symm, Int.gcd_comm⟩
  rintro w ⟨n, h⟩ h1
  exact h.natAbs_r0_eq h1

theorem commandResults_gcd_resG (W : Nat) (a b : Int) :
    (commandResults W .gcd a b).resG = { word := u32 (gcdN a b), reading := .unsigned } := rfl

theorem commandResults_egcd_resG (W : Nat) (a b : Int) :
    (commandResults W .egcd a b).resG = { word := signedResult W (extendedEuclid a b).1, reading := .signed } := rfl

/-- The readings keep the two values of RES_G apart, whatever their words (42_egcd.md R134). -/
theorem commandResults_gcd_resG_ne_egcd (W : Nat) (a b : Int) :
    (commandResults W .gcd a b).resG ≠ (commandResults W .egcd a b).resG := by
  rw [commandResults_gcd_resG, commandResults_egcd_resG]
  simp

/-- RES_G after GCD has the value of the gcd: it fits the 32 bits (41_gcd.md R122). -/
theorem commandResults_gcd_value {W : Nat} {a b : Int} (hhigh : W ≤ 32) (ha : InRange W a) (hb : InRange W b) :
    (commandResults W .gcd a b).resG.value = gcdN a b := by
  have hbound : gcdN a b ≤ 2 ^ 31 :=
    (gcdN_le_of_inRange ha hb).trans (Nat.pow_le_pow_right (by norm_num) (by omega))
  rw [commandResults_gcd_resG, GResult.value, u32, BitVec.toNat_ofNat, Nat.mod_eq_of_lt (by omega)]

/-- RES_G after EGCD has the value of the recursion's gcd (42_egcd.md R134). -/
theorem commandResults_egcd_value {W : Nat} {a b : Int} (hW : 0 < W) (hhigh : W ≤ 32) (ha : InRange W a)
    (hb : InRange W b) : (commandResults W .egcd a b).resG.value = (extendedEuclid a b).1 := by
  rw [commandResults_egcd_resG, GResult.value, (ha.extendedEuclid_fst hb).toInt_signedResult hW hhigh]

/-- Settles O36: RES_G has the value of the gcd after GCD and of the recursion's gcd after EGCD, whose magnitude is the
gcd; with W = 32 the two patterns of `2^31` agree. -/
theorem gcdIsUnsignedAndEgcdSigned : Obligations.GcdIsUnsignedAndEgcdSigned := by
  unfold Obligations.GcdIsUnsignedAndEgcdSigned
  constructor
  · intro p a b hwf ha hb
    obtain ⟨hlow, hhigh, -⟩ := (Params.wf_iff p).mp hwf
    have hgcd := commandResults_gcd_value hhigh ha hb
    have hegcd := commandResults_egcd_value (by omega) hhigh ha hb
    refine ⟨hgcd, ?_, rfl, gcdN_le_of_inRange ha hb, gcdN_eq_two_pow_iff ha hb⟩
    rw [hgcd, hegcd, natAbs_extendedEuclid_fst]
  · have hmin : InRange 32 (-(2 ^ 31)) := by norm_num [InRange]
    have hzero : InRange 32 0 := by norm_num [InRange]
    refine ⟨?_, ?_, ?_, ?_, commandResults_gcd_resG_ne_egcd _ _ _⟩
    · rw [commandResults_gcd_resG, gcdN_zero]
      rfl
    · rw [commandResults_egcd_resG, extendedEuclid_zero, hmin.signedResult_eq (by norm_num) le_rfl]
      rfl
    · rw [commandResults_gcd_value le_rfl hmin hzero, gcdN_zero]
      rfl
    · rw [commandResults_egcd_value (by norm_num) le_rfl hmin hzero, extendedEuclid_zero]

end Sys2Proof.Machine
end

section
/-! A command from START to completion, left alone by the host (40_engine.md R91, R95, R96), for GCD, EGCD and MODINV
alike; and GCD (41_gcd.md R120). -/

namespace Sys2Proof.Machine

/-- The state in IDLE, with the results of a completed command. -/
def State.completedWith (s : State) (r : Results) : State :=
  { s with
    resG := r.resG, resX := r.resX, resY := r.resY, resInv := r.resInv, iters := r.iters
    noinv := r.noinv, err := r.err, done := true, fsm := .idle }

/-- A completion writes its results, DONE and the FSM state, and nothing else (40_engine.md R96). -/
theorem complete_eq_completedWith (s : State) : complete s = s.completedWith (complete s).results := by
  unfold complete commandComplete
  cases s.wk.op with
  | gcd => rfl
  | egcd => rfl
  | modinv =>
    simp only [modinvComplete]
    rcases storeInverse_cases (storeTriple s) with ⟨-, h⟩ | ⟨-, -, h⟩ | ⟨-, -, h⟩ <;> rw [h] <;> rfl

/-- A step that answers a next state is the first of a run. -/
theorem run_succ_of_step {M : Host.Core} {s s' : M.State} (h : M.step s = .next s') (n : Nat) :
    M.run (n + 1) s = M.run n s' := by
  rw [Host.Core.run, h]

/-- With an empty script the machine's first step is the engine's (70_reset_and_hazards.md R190). -/
theorem run_succ_of_inputs_nil {s : State} (h : s.inputs = []) (n : Nat) :
    Host.Core.run core (n + 1) s = Host.Core.run core n (engineStep s) := by
  have hstep : step s = .next (engineStep s) := by simp only [step, fetch_nil h]
  exact run_succ_of_step (M := core) hstep n

/-- A running command left alone completes, one engine step after the divisions still to come. -/
theorem run_completes {s : State} (hin : s.inputs = []) (hrun : s.fsm = .run) (hreached : s.wk.Reached) :
    ∃ w : Working, w.Reached ∧ w.r1 = 0 ∧ w.op = s.wk.op ∧ w.a = s.wk.a ∧ w.b = s.wk.b ∧
      Host.Core.run core (divisions s.wk.r0 s.wk.r1 + 1) s = .next (complete (s.withWk w)) := by
  induction hd : divisions s.wk.r0 s.wk.r1 generalizing s with
  | zero =>
    have h1 : s.wk.r1 = 0 := by
      by_contra h1
      simp [divisions_of_ne_zero s.wk.r0 h1] at hd
    refine ⟨s.wk, hreached, h1, rfl, rfl, rfl, ?_⟩
    rw [run_succ_of_inputs_nil hin, engineStep_complete hrun h1]
    rfl
  | succ d ih =>
    have h1 : s.wk.r1 ≠ 0 := by
      intro h1
      simp [h1] at hd
    have hd' : divisions (iterate s.wk).r0 (iterate s.wk).r1 = d := by
      rw [divisions_of_ne_zero s.wk.r0 h1] at hd
      rw [iterate_r0, iterate_r1]
      omega
    obtain ⟨n, hn⟩ := hreached
    rw [run_succ_of_inputs_nil hin, engineStep_iterate hrun h1]
    exact ih (s := s.withWk (iterate s.wk)) hin hrun ⟨n + 1, hn.iterate h1⟩ hd'

/-- The state right after the acceptance of a START (40_engine.md R90, R91). -/
def State.startedWith (s : State) (op : BitVec 3) (clr : Bool) (c : Command) : State :=
  { s with
    op := op, done := false, noinv := false, err := errNone, ovr := if clr then false else s.ovr, fsm := .run
    wk := startWorking c (sint s.params.W s.opa) (sint s.params.W s.opb), resp := .writeDone }

/-- A START with a legal OP is accepted in IDLE. -/
theorem exec_of_starts {i : Instr} {op : BitVec 3} {clr : Bool} {c : Command} {s : State} (hi : i.Starts op clr)
    (hc : commandOf op = some c) (hidle : s.fsm = .idle) : exec i s = .next (s.startedWith op clr c) := by
  have haccept : start op (applyClr clr (s.withOp op)) = accept c (applyClr clr (s.withOp op)) := by
    simp [start, applyClr_eq, hidle, hc]
  rw [exec_ctrlFields hi, ctrlWrite, if_pos rfl, haccept]
  cases clr <;> rfl

/-- The operands that a START latches are W-bit values (10_state.md R30). -/
theorem sint_inRange_of_wf {p : Params} (hwf : p.wf = true) (v : Word) : InRange p.W (sint p.W v) := by
  obtain ⟨hlow, -, -⟩ := (Params.wf_iff p).mp hwf
  exact sint_inRange (by omega) v

/-- A START with a legal OP in IDLE, left alone, ends one engine step after the divisions of its operands, with the
results of its command on them (40_engine.md R93, R97). -/
theorem command_completes {i : Instr} {op : BitVec 3} {clr : Bool} {c : Command} {s : State} (hi : i.Starts op clr)
    (hc : commandOf op = some c) (hwf : s.params.wf = true) (hidle : s.fsm = .idle) (hin : s.inputs = []) :
    ∃ t w, exec i s = .next t ∧
      Host.Core.run core (divisions (sint s.params.W s.opa) (sint s.params.W s.opb) + 1) t =
        .next (((s.startedWith op clr c).withWk w).completedWith
          (commandResults s.params.W c (sint s.params.W s.opa) (sint s.params.W s.opb))) := by
  obtain ⟨w, hreached, h1, hop, ha, hb, hruns⟩ :=
    run_completes (s := s.startedWith op clr c) hin rfl ⟨0, startWorking_reachedBy _ _ _⟩
  have hfits : ((s.startedWith op clr c).withWk w).RunFits :=
    ⟨rfl, rfl, rfl, ha ▸ sint_inRange_of_wf hwf s.opa, hb ▸ sint_inRange_of_wf hwf s.opb, hreached⟩
  have hresults := complete_results_of_runFits (s := (s.startedWith op clr c).withWk w) hwf hfits h1
  rw [complete_eq_completedWith, hresults, State.withWk_wk, hop, ha, hb] at hruns
  exact ⟨_, w, exec_of_starts hi hc hidle, hruns⟩

/-- A remainder of 0 ends the divisions after the first, with the divisor as the gcd (41_gcd.md R120). -/
theorem gcdN_and_divisions_of_fmod_eq_zero {a b : Int} (hb : b ≠ 0) (h : fmod a b = 0) :
    gcdN a b = b.natAbs ∧ divisions a b = 1 := by
  rw [← gcdN_fmod, divisions_of_ne_zero a hb, h]
  exact ⟨gcdN_zero b, rfl⟩

/-- Settles O32: the command completes with the results of GCD, which are the gcd and the number of divisions; the
corner cases have the remainder 0 at once. -/
theorem gcdCommandComputesTheGcd : Obligations.GcdCommandComputesTheGcd := by
  unfold Obligations.GcdCommandComputesTheGcd
  refine ⟨fun s clr hinv hidle hin => ?_, fun a => ⟨gcdN_zero a, divisions_zero a⟩, fun b hb => ?_,
    by decide, by decide⟩
  · obtain ⟨hwf, -⟩ := hinv
    obtain ⟨hlow, -, -⟩ := (Params.wf_iff s.params).mp hwf
    have ha := sint_inRange_of_wf hwf s.opa
    have hb := sint_inRange_of_wf hwf s.opb
    obtain ⟨t, w, hexec, hruns⟩ := command_completes (i := .gcd clr) (c := .gcd) rfl rfl hwf hidle hin
    exact ⟨t, _, hexec, hruns, rfl, gcdN_le_of_inRange ha hb, divisions_le_of_inRange (by omega) hb _⟩
  · obtain ⟨hzero, hzero'⟩ := gcdN_and_divisions_of_fmod_eq_zero hb (a := 0) (by rw [fmod_eq, Int.zero_fmod])
    obtain ⟨hself, hself'⟩ := gcdN_and_divisions_of_fmod_eq_zero hb (a := b) (by rw [fmod_eq, Int.fmod_self])
    exact ⟨hzero, hzero', hself, hself'⟩

end Sys2Proof.Machine
end

section
/-! The triple of the source's recursion (42_egcd.md R131 to R133): Bezout's identity, the sign of its gcd, and the
bounds of its coefficients. -/

namespace Sys2Proof.Machine

/-- Bezout's identity (42_egcd.md R132). -/
theorem extendedEuclid_bezout (a m : Int) :
    a * (extendedEuclid a m).2.1 + m * (extendedEuclid a m).2.2 = (extendedEuclid a m).1 := by
  induction a, m using euclid_induct with
  | hzero a => simp
  | hlevel a m hm ih =>
    rcases hnext : extendedEuclid m (fmod a m) with ⟨g, x, y⟩
    rw [hnext, fmod] at ih
    rw [extendedEuclid_of_ne_zero hm hnext]
    linear_combination ih

/-- Settles O37: the defining equations are those of one level, which do not see the depth of the definition. -/
theorem recursionIsTheSources : Obligations.RecursionIsTheSources := by
  unfold Obligations.RecursionIsTheSources
  refine ⟨extendedEuclid_zero, fun a m hm => ?_, extendedEuclid_bezout, by decide⟩
  rcases hnext : extendedEuclid m (fmod a m) with ⟨g, x, y⟩
  exact ⟨extendedEuclid_of_ne_zero hm hnext, natAbs_fmod_lt a hm⟩

/-- The recursion's gcd has the sign of the modulus, as the remainders do (42_egcd.md R133). -/
theorem extendedEuclid_fst_sign (a m : Int) :
    (0 < m → 0 < (extendedEuclid a m).1) ∧ (m < 0 → (extendedEuclid a m).1 < 0) := by
  induction a, m using euclid_induct with
  | hzero a => simp
  | hlevel a m hm ih =>
    rw [extendedEuclid_fst_of_ne_zero a hm]
    by_cases hr : fmod a m = 0
    · simp [hr]
    · have hrange := fmod_range a hm
      omega

/-- Settles O39: the recursion's gcd is the gcd in magnitude, and has the sign of the modulus. -/
theorem signOfTheRecursionsGcd : Obligations.SignOfTheRecursionsGcd := by
  unfold Obligations.SignOfTheRecursionsGcd
  refine ⟨fun a m hpos => ?_, fun a => rfl, fun a m hneg => ?_, by decide, by decide, by decide⟩
  · have hmag := natAbs_extendedEuclid_fst a m
    have hsign := (extendedEuclid_fst_sign a m).1 hpos
    omega
  · have hmag := natAbs_extendedEuclid_fst a m
    have hsign := (extendedEuclid_fst_sign a m).2 hneg
    omega

/-- A remainder of 0 ends the recursion after one level. -/
theorem extendedEuclid_of_fmod_eq_zero {a m : Int} (hm : m ≠ 0) (hr : fmod a m = 0) :
    extendedEuclid a m = (m, 0, 1) := by
  have hnext : extendedEuclid m (fmod a m) = (m, 1, 0) := by rw [hr, extendedEuclid_zero]
  simpa using extendedEuclid_of_ne_zero hm hnext

/-- The triple for a modulus that divides `a` (42_egcd.md R130). -/
theorem extendedEuclid_of_dvd {a m : Int} (hm : m ≠ 0) (h : m ∣ a) : extendedEuclid a m = (m, 0, 1) :=
  extendedEuclid_of_fmod_eq_zero hm (by rw [fmod_eq, Int.fmod_eq_zero_of_dvd h])

/-- `r` has the sign of `m` and a smaller magnitude, and is not 0: a remainder modulo `m` from which the recursion
goes on. -/
def ProperRemainder (m r : Int) : Prop := (0 < r ∧ r < m) ∨ (m < r ∧ r < 0)

theorem properRemainder_fmod (a : Int) {m : Int} (hm : m ≠ 0) (hr : fmod a m ≠ 0) :
    ProperRemainder m (fmod a m) := by
  have hrange := fmod_range a hm
  unfold ProperRemainder
  omega

/-- Between numbers of one sign, floor division divides the magnitudes. -/
theorem natAbs_eq_of_properRemainder {a m : Int} (h : ProperRemainder a m) :
    a.natAbs = (fdiv a m).natAbs * m.natAbs + (fmod a m).natAbs := by
  have hdef : fmod a m = a - m * fdiv a m := rfl
  rw [← Int.natAbs_mul, mul_comm]
  rcases h with ⟨hpos, hlt⟩ | ⟨hlt, hneg⟩
  · have hrem : 0 ≤ fmod a m ∧ fmod a m < m := by have := fmod_range a hpos.ne'; omega
    have hmul : 0 ≤ m * fdiv a m := mul_nonneg hpos.le (Int.fdiv_nonneg (hpos.trans hlt).le hpos.le)
    omega
  · have hrem : m < fmod a m ∧ fmod a m ≤ 0 := by have := fmod_range a hneg.ne; omega
    have hq : 0 ≤ fdiv a m := by by_contra hq; nlinarith
    have hmul : m * fdiv a m ≤ 0 := mul_nonpos_of_nonpos_of_nonneg hneg.le hq
    omega

/-- The coefficient of `a` is at most half the modulus. The induction needs the other coefficient too, where `m` is
itself a remainder: the next level hands it on as the coefficient of `a`. -/
theorem two_mul_natAbs_coefficients_le (a : Int) {m : Int} (hm : m ≠ 0) :
    2 * (extendedEuclid a m).2.1.natAbs ≤ m.natAbs ∧
      (ProperRemainder a m → 2 * (extendedEuclid a m).2.2.natAbs ≤ a.natAbs) := by
  induction a, m using euclid_induct with
  | hzero a => exact absurd rfl hm
  | hlevel a m _ ih =>
    by_cases hr : fmod a m = 0
    · rw [extendedEuclid_of_fmod_eq_zero hm hr]
      refine ⟨by simp, fun hproper => ?_⟩
      unfold ProperRemainder at hproper
      simp only [Int.natAbs_one]
      omega
    · obtain ⟨hx, hy⟩ := ih hr
      replace hy := hy (properRemainder_fmod a hm hr)
      rcases hnext : extendedEuclid m (fmod a m) with ⟨g, x, y⟩
      rw [hnext] at hx hy
      rw [extendedEuclid_of_ne_zero hm hnext]
      refine ⟨hy, fun hproper => ?_⟩
      calc 2 * (x - fdiv a m * y).natAbs
          ≤ 2 * (x.natAbs + (fdiv a m * y).natAbs) := Nat.mul_le_mul_left 2 (Int.natAbs_sub_le _ _)
        _ = (fdiv a m).natAbs * (2 * y.natAbs) + 2 * x.natAbs := by rw [Int.natAbs_mul]; ring
        _ ≤ (fdiv a m).natAbs * m.natAbs + (fmod a m).natAbs := Nat.add_le_add (Nat.mul_le_mul_left _ hy) hx
        _ = a.natAbs := (natAbs_eq_of_properRemainder hproper).symm

/-- The range of the coefficient of `a` for a positive modulus, on which the normalizer relies (42_egcd.md R132). -/
theorem coefficient_range (a : Int) {m : Int} (hm : 0 < m) :
    -m ≤ (extendedEuclid a m).2.1 ∧ (extendedEuclid a m).2.1 < m := by
  obtain ⟨hhalf, -⟩ := two_mul_natAbs_coefficients_le a hm.ne'
  omega

/-- Where the recursion goes on, its gcd divides the remainder, and so is smaller than the modulus. -/
theorem natAbs_extendedEuclid_fst_lt {a m : Int} (hm : m ≠ 0) (hr : fmod a m ≠ 0) :
    (extendedEuclid a m).1.natAbs < m.natAbs := by
  rw [natAbs_extendedEuclid_fst, ← gcdN_fmod]
  exact (Int.gcd_le_natAbs_right _ hr).trans_lt (natAbs_fmod_lt a hm)

/-- The coefficient of the modulus is at most about half of `a`: Bezout's identity bounds it by the coefficient of
`a`. -/
theorem two_mul_natAbs_extendedEuclid_snd_le (a m : Int) :
    2 * (extendedEuclid a m).2.2.natAbs ≤ max (a.natAbs + 1) 2 := by
  by_cases hm : m = 0
  · simp [hm]
  by_cases hr : fmod a m = 0
  · rw [extendedEuclid_of_fmod_eq_zero hm hr]
    simp
  obtain ⟨hx, -⟩ := two_mul_natAbs_coefficients_le a hm
  have hg := natAbs_extendedEuclid_fst_lt hm hr
  have hbezout := extendedEuclid_bezout a m
  rcases htriple : extendedEuclid a m with ⟨g, x, y⟩
  simp only [htriple] at hx hg hbezout ⊢
  have hy : m.natAbs * y.natAbs ≤ g.natAbs + a.natAbs * x.natAbs := by
    rw [← Int.natAbs_mul, ← Int.natAbs_mul, ← sub_eq_of_eq_add' hbezout.symm]
    exact Int.natAbs_sub_le g (a * x)
  have hlt : 2 * y.natAbs < a.natAbs + 2 := by
    refine Nat.lt_of_mul_lt_mul_left (a := m.natAbs) ?_
    have hmul := Nat.mul_le_mul_left a.natAbs hx
    linarith
  omega

/-- The bounds of 42_egcd.md R132 for W-bit operands. -/
theorem InRange.abs_coefficients_le {W : Nat} {a m : Int} (hW : 3 ≤ W) (ha : InRange W a) (hm : InRange W m) :
    |(extendedEuclid a m).2.1| ≤ 2 ^ (W - 2) ∧ |(extendedEuclid a m).2.2| ≤ 2 ^ (W - 2) := by
  have hhalf : 2 ^ (W - 1) = 2 * 2 ^ (W - 2) := by rw [← pow_succ', show W - 2 + 1 = W - 1 by omega]
  have htwo : 2 ≤ 2 ^ (W - 2) := Nat.le_self_pow (by omega) 2
  have hamag := ha.natAbs_le
  have hmmag := hm.natAbs_le
  have hy := two_mul_natAbs_extendedEuclid_snd_le a m
  have hx : 2 * (extendedEuclid a m).2.1.natAbs ≤ max m.natAbs 2 := by
    by_cases hm0 : m = 0
    · simp [hm0]
    · exact le_max_of_le_left (two_mul_natAbs_coefficients_le a hm0).1
  rw [Int.abs_eq_natAbs, Int.abs_eq_natAbs]
  have hbounds : (extendedEuclid a m).2.1.natAbs ≤ 2 ^ (W - 2) ∧ (extendedEuclid a m).2.2.natAbs ≤ 2 ^ (W - 2) :=
    ⟨by omega, by omega⟩
  exact_mod_cast hbounds

/-- Settles O38: `|x|` is at most half of `m`, and `|y|` about half of `a`, each a W-bit value. -/
theorem coefficientsAreBounded : Obligations.CoefficientsAreBounded := by
  unfold Obligations.CoefficientsAreBounded
  intro p a m hwf ha hm
  obtain ⟨hlow, -, -⟩ := (Params.wf_iff p).mp hwf
  obtain ⟨hx, hy⟩ := ha.abs_coefficients_le (by omega) hm
  exact ⟨extendedEuclid_bezout a m, natAbs_extendedEuclid_fst a m, hx, hy, fun hpos _ => coefficient_range a hpos⟩

end Sys2Proof.Machine
end

section
/-! EGCD from START to completion, left alone by the host (42_egcd.md R130). -/

namespace Sys2Proof.Machine

/-- A value of at most `2^(W-2)` in magnitude is a W-bit value. -/
theorem inRange_of_abs_le {W : Nat} {i : Int} (hW : 2 ≤ W) (h : |i| ≤ 2 ^ (W - 2)) : InRange W i := by
  have hlt : (2 : Int) ^ (W - 2) < 2 ^ (W - 1) := pow_lt_pow_right₀ (by norm_num) (by omega)
  obtain ⟨hlow, hhigh⟩ := abs_le.mp h
  exact ⟨by omega, by omega⟩

/-- The triple of W-bit operands is placed as 32-bit patterns of its values, which lose nothing of it (30_encoding.md
R73, 42_egcd.md R132). -/
theorem InRange.signedResult_triple {W : Nat} {a m g x y : Int} (hlow : 4 ≤ W) (hhigh : W ≤ 32) (ha : InRange W a)
    (hm : InRange W m) (htriple : extendedEuclid a m = (g, x, y)) :
    signedResult W g = BitVec.ofInt 32 g ∧ signedResult W x = BitVec.ofInt 32 x ∧
      signedResult W y = BitVec.ofInt 32 y := by
  have hg := ha.extendedEuclid_fst hm
  obtain ⟨hx, hy⟩ := ha.abs_coefficients_le (by omega) hm
  rw [htriple] at hg hx hy
  exact ⟨hg.signedResult_eq (by omega) hhigh, (inRange_of_abs_le (by omega) hx).signedResult_eq (by omega) hhigh,
    (inRange_of_abs_le (by omega) hy).signedResult_eq (by omega) hhigh⟩

/-- What EGCD of W-bit operands writes (42_egcd.md R130). -/
theorem commandResults_egcd {W : Nat} {a m g x y : Int} (hlow : 4 ≤ W) (hhigh : W ≤ 32) (ha : InRange W a)
    (hm : InRange W m) (htriple : extendedEuclid a m = (g, x, y)) :
    commandResults W .egcd a m =
      { resG := { word := BitVec.ofInt 32 g, reading := .signed }
        resX := BitVec.ofInt 32 x, resY := BitVec.ofInt 32 y, resInv := 0#32
        iters := u32 (divisions a m), noinv := false, err := errNone } := by
  obtain ⟨hg, hx, hy⟩ := InRange.signedResult_triple hlow hhigh ha hm htriple
  simp only [commandResults, htriple, hg, hx, hy]

/-- Settles O33: the command completes with the results of EGCD, which are the triple of the recursion; the moduli of
the corner cases divide the other operand. -/
theorem egcdCommandComputesTheTriple : Obligations.EgcdCommandComputesTheTriple := by
  unfold Obligations.EgcdCommandComputesTheTriple
  refine ⟨fun s clr hinv hidle hin => ?_, fun a => ⟨extendedEuclid_zero a, ?_, ?_, ?_⟩, fun m hm => ⟨?_, ?_⟩,
    by decide, by decide⟩
  · intro a m
    obtain ⟨hwf, -⟩ := hinv
    obtain ⟨hlow, hhigh, -⟩ := (Params.wf_iff s.params).mp hwf
    have ha : InRange s.params.W a := sint_inRange_of_wf hwf s.opa
    have hm : InRange s.params.W m := sint_inRange_of_wf hwf s.opb
    have hg := ha.extendedEuclid_fst hm
    obtain ⟨hx, hy⟩ := ha.abs_coefficients_le (by omega) hm
    obtain ⟨t, w, hexec, hruns⟩ := command_completes (i := .egcd clr) (c := .egcd) rfl rfl hwf hidle hin
    rcases htriple : extendedEuclid a m with ⟨g, x, y⟩
    rw [htriple] at hg hx hy
    rw [commandResults_egcd hlow hhigh ha hm htriple] at hruns
    exact ⟨t, _, hexec, hruns, rfl, hg, hx, hy, divisions_le_of_inRange (by omega) hm _⟩
  · exact extendedEuclid_of_dvd one_ne_zero (one_dvd a)
  · exact extendedEuclid_of_dvd (by decide) (Int.neg_dvd.mpr (one_dvd a))
  · have hrange := fmod_range a (b := -1) (by decide)
    have hdef : fmod a (-1) = a - -1 * fdiv a (-1) := rfl
    omega
  · exact extendedEuclid_of_dvd hm (dvd_zero m)
  · exact extendedEuclid_of_dvd hm dvd_rfl

end Sys2Proof.Machine
end

section
/-! The inverse of MODINV (43_modinv.md R140 to R147): when it is reported absent, the normalizer, and the modulus 27. -/

namespace Sys2Proof.Machine

theorem inverseResult_of_ne_one {g : Int} (hg : g ≠ 1) (x m : Int) : inverseResult g x m = (0#32, true, errNone) :=
  if_pos hg

/-- With `g = 1` and a non-zero modulus the inverse is the normalized coefficient. -/
theorem inverseResult_one_of_ne_zero (x : Int) {m : Int} (hm : m ≠ 0) :
    inverseResult 1 x m = (u32 (normalize x m).toNat, false, errNone) :=
  (if_neg (not_not.mpr rfl)).trans (if_neg hm)

/-- With `g = 1` NOINV stays 0, after MODZERO too. -/
theorem inverseResult_one_noinv (x m : Int) : (inverseResult 1 x m).2.1 = false := by
  by_cases hm : m = 0
  · rw [hm]
    rfl
  · rw [inverseResult_one_of_ne_zero x hm]

theorem commandResults_modinv_resInv (W : Nat) (a m : Int) : (commandResults W .modinv a m).resInv =
    (inverseResult (extendedEuclid a m).1 (extendedEuclid a m).2.1 m).1 := rfl

theorem commandResults_modinv_noinv (W : Nat) (a m : Int) : (commandResults W .modinv a m).noinv =
    (inverseResult (extendedEuclid a m).1 (extendedEuclid a m).2.1 m).2.1 := rfl

/-- The existence test of 43_modinv.md R141. -/
theorem commandResults_modinv_noinv_iff (W : Nat) (a m : Int) :
    (commandResults W .modinv a m).noinv = true ↔ (extendedEuclid a m).1 ≠ 1 := by
  rw [commandResults_modinv_noinv]
  by_cases hg : (extendedEuclid a m).1 = 1
  · simp [hg, inverseResult_one_noinv]
  · simp [inverseResult_of_ne_one hg, hg]

theorem commandResults_modinv_noinv_eq_false_iff (W : Nat) (a m : Int) :
    (commandResults W .modinv a m).noinv = false ↔ (extendedEuclid a m).1 = 1 := by
  rw [← Bool.not_eq_true, commandResults_modinv_noinv_iff, not_not]

theorem commandResults_modinv_resInv_of_ne_one {a m : Int} (hg : (extendedEuclid a m).1 ≠ 1) (W : Nat) :
    (commandResults W .modinv a m).resInv = 0#32 := by
  rw [commandResults_modinv_resInv, inverseResult_of_ne_one hg]

theorem commandResults_modinv_resInv_of_eq_one {a m : Int} (hg : (extendedEuclid a m).1 = 1) (hm : m ≠ 0) (W : Nat) :
    (commandResults W .modinv a m).resInv = u32 (normalize (extendedEuclid a m).2.1 m).toNat := by
  rw [commandResults_modinv_resInv, hg, inverseResult_one_of_ne_zero _ hm]

/-- For a positive modulus the recursion's gcd is the gcd (42_egcd.md R133). -/
theorem extendedEuclid_fst_of_pos (a : Int) {m : Int} (hm : 0 < m) : (extendedEuclid a m).1 = gcdN a m := by
  have hmag := natAbs_extendedEuclid_fst a m
  have hsign := (extendedEuclid_fst_sign a m).1 hm
  omega

/-- For a positive modulus NOINV tests the gcd itself (43_modinv.md R141). -/
theorem commandResults_modinv_noinv_iff_of_pos (W : Nat) (a : Int) {m : Int} (hm : 0 < m) :
    (commandResults W .modinv a m).noinv = true ↔ gcdN a m ≠ 1 := by
  rw [commandResults_modinv_noinv_iff, extendedEuclid_fst_of_pos a hm, Ne, Nat.cast_eq_one]

/-- For a negative modulus there is never an inverse (43_modinv.md R145). -/
theorem commandResults_modinv_noinv_of_neg (W : Nat) (a : Int) {m : Int} (hm : m < 0) :
    (commandResults W .modinv a m).noinv = true := by
  have hsign := (extendedEuclid_fst_sign a m).2 hm
  rw [commandResults_modinv_noinv_iff]
  omega

/-- Settles O40: NOINV tests the recursion's gcd, whose sign is that of the modulus. -/
theorem inverseExistsExactly : Obligations.InverseExistsExactly := by
  unfold Obligations.InverseExistsExactly
  intro W a m
  have hnoinv := commandResults_modinv_noinv_iff W a m
  refine ⟨hnoinv, commandResults_modinv_noinv_iff_of_pos W a, ?_, commandResults_modinv_noinv_of_neg W a,
    fun h => commandResults_modinv_resInv_of_ne_one (hnoinv.mp h) W⟩
  rintro rfl
  exact hnoinv

/-- Adding the modulus does not change the remainder (43_modinv.md R142). -/
theorem normalize_eq_fmod (x m : Int) : normalize x m = fmod x m := by
  unfold normalize
  split
  · rw [fmod_eq, fmod_eq, Int.add_fmod_right]
  · rfl

theorem normalize_range (x : Int) {m : Int} (hm : 0 < m) : 0 ≤ normalize x m ∧ normalize x m < m := by
  have hrange := fmod_range x hm.ne'
  rw [normalize_eq_fmod]
  omega

/-- Settles O41: on the range it is reached with, the conditional addition already gives a number in `[0, m)`, which is
its own remainder, by floor and by truncation alike. -/
theorem normalizerIsOneConditionalAdd : Obligations.NormalizerIsOneConditionalAdd := by
  unfold Obligations.NormalizerIsOneConditionalAdd
  refine ⟨fun x m hm => ?_, fun a m hm _ => coefficient_range a hm, by decide⟩
  obtain ⟨hnonneg, hlt⟩ := normalize_range x hm
  refine ⟨normalize_eq_fmod x m, hnonneg, hlt, fun hlow hhigh => ?_⟩
  have hsum : 0 ≤ (if x < 0 then x + m else x) ∧ (if x < 0 then x + m else x) < m := by split <;> omega
  obtain ⟨hsum0, hsumlt⟩ := hsum
  rw [normalize, fmod_eq, Int.fmod_eq_of_lt hsum0 hsumlt, Int.tmod_eq_of_lt hsum0 hsumlt]
  exact ⟨rfl, rfl⟩

theorem fmod_one (a : Int) : fmod a 1 = 0 := by
  rw [fmod_eq, Int.fmod_one]

/-- Settles O43: 1 divides every `a`, so the triple is (1, 0, 1), and a remainder modulo 1 is 0. -/
theorem inverseModuloOneIsZero : Obligations.InverseModuloOneIsZero := by
  unfold Obligations.InverseModuloOneIsZero
  intro W a
  have htriple : extendedEuclid a 1 = (1, 0, 1) := extendedEuclid_of_dvd one_ne_zero (one_dvd a)
  have hg : (extendedEuclid a 1).1 = 1 := by rw [htriple]
  have hnormal : normalize 0 1 = 0 := by rw [normalize_eq_fmod, fmod_one]
  refine ⟨fmod_one a, htriple, (commandResults_modinv_noinv_eq_false_iff W a 1).mpr hg, hnormal, ?_, fun x => ?_⟩
  · rw [commandResults_modinv_resInv_of_eq_one hg one_ne_zero, htriple, hnormal]
    rfl
  · rw [fmod_one]
    exact zero_ne_one

/-- Settles O44: the recursion's gcd is negative where the modulus is. -/
theorem negativeModulusHasNoInverse : Obligations.NegativeModulusHasNoInverse := by
  unfold Obligations.NegativeModulusHasNoInverse
  refine ⟨fun W a m hm => ⟨?_, commandResults_modinv_noinv_of_neg W a hm⟩, by decide, by decide⟩
  exact Int.le_sub_one_of_lt ((extendedEuclid_fst_sign a m).2 hm)

/-- Where `g = 1`, the normalized coefficient of `a` is an inverse of `a`: by Bezout's identity (43_modinv.md R142). -/
theorem fmod_mul_normalize_eq_one {a m : Int} (hm : 1 < m) (hg : (extendedEuclid a m).1 = 1) :
    fmod (a * normalize (extendedEuclid a m).2.1 m) m = 1 := by
  have hbezout := extendedEuclid_bezout a m
  rw [hg] at hbezout
  have hmultiple : a * normalize (extendedEuclid a m).2.1 m =
      1 + m * (-(extendedEuclid a m).2.2 - a * fdiv (extendedEuclid a m).2.1 m) := by
    rw [normalize_eq_fmod, fmod]
    linear_combination hbezout
  rw [hmultiple, fmod_eq, Int.add_mul_fmod_self_left, Int.fmod_eq_of_lt zero_le_one hm]

/-- RES_INV has the value of the normalized coefficient: it fits the 32 bits (43_modinv.md R140). -/
theorem InRange.toNat_resInv {W : Nat} {a m : Int} (hhigh : W ≤ 32) (hm : InRange W m) (hpos : 0 < m)
    (hg : (extendedEuclid a m).1 = 1) :
    ((commandResults W .modinv a m).resInv.toNat : Int) = normalize (extendedEuclid a m).2.1 m := by
  obtain ⟨hnonneg, hlt⟩ := normalize_range (extendedEuclid a m).2.1 hpos
  have hmag := hm.natAbs_le
  have hbound : 2 ^ (W - 1) ≤ 2 ^ 31 := Nat.pow_le_pow_right (by norm_num) (by omega)
  rw [commandResults_modinv_resInv_of_eq_one hg hpos.ne', u32, BitVec.toNat_ofNat, Nat.mod_eq_of_lt (by omega),
    Int.toNat_of_nonneg hnonneg]

/-- 27 is a power of the prime 3 (43_modinv.md R146). -/
theorem gcdN_27_ne_one_iff (a : Int) : gcdN a 27 ≠ 1 ↔ (3 : Int) ∣ a := by
  have hcoprime : gcdN a 27 = 1 ↔ Nat.Coprime a.natAbs (3 ^ 3) := Iff.rfl
  rw [Ne, hcoprime, Nat.coprime_pow_right_iff (by norm_num), Nat.coprime_comm, Nat.prime_three.coprime_iff_not_dvd,
    not_not, ← Int.natCast_dvd, Nat.cast_ofNat]

/-- Settles O45: RES_INV is the normalized coefficient, and 27 is a power of 3. -/
theorem inverseModulo27 : Obligations.InverseModulo27 := by
  unfold Obligations.InverseModulo27
  intro p a hwf _ h27
  obtain ⟨-, hhigh, -⟩ := (Params.wf_iff p).mp hwf
  have hnoinv := commandResults_modinv_noinv_iff_of_pos p.W a (m := 27) (by norm_num)
  refine ⟨fun hinv => ?_, hnoinv, hnoinv.trans (gcdN_27_ne_one_iff a)⟩
  have hg := (commandResults_modinv_noinv_eq_false_iff p.W a 27).mp hinv
  have hvalue := h27.toNat_resInv hhigh (by norm_num) hg
  obtain ⟨-, hlt⟩ := normalize_range (extendedEuclid a 27).2.1 (m := 27) (by norm_num)
  refine ⟨by omega, ?_⟩
  rw [hvalue]
  exact fmod_mul_normalize_eq_one (by norm_num) hg

/-- The word of RES_G after GCD is 1 exactly where the gcd is (41_gcd.md R122). -/
theorem commandResults_gcd_word_eq_one_iff {W : Nat} {a b : Int} (hhigh : W ≤ 32) (ha : InRange W a)
    (hb : InRange W b) : (commandResults W .gcd a b).resG.word = 1#32 ↔ gcdN a b = 1 := by
  have hvalue := commandResults_gcd_value hhigh ha hb
  rw [commandResults_gcd_resG, GResult.value, Nat.cast_inj] at hvalue
  rw [commandResults_gcd_resG, ← BitVec.toNat_inj, hvalue, BitVec.toNat_ofNat]

/-- Settles O46: for a positive modulus both checks test the gcd. -/
theorem keyChecksAgreeModulo27 : Obligations.KeyChecksAgreeModulo27 := by
  unfold Obligations.KeyChecksAgreeModulo27
  refine ⟨fun p a hwf ha h27 => ?_, by decide, by decide, by decide, by decide⟩
  obtain ⟨-, hhigh, -⟩ := (Params.wf_iff p).mp hwf
  rw [commandResults_gcd_word_eq_one_iff hhigh ha h27, ← Bool.not_eq_true,
    commandResults_modinv_noinv_iff_of_pos p.W a (by norm_num), not_not]

end Sys2Proof.Machine
end

section
/-! A reset (70_reset_and_hazards.md R180): its step, and the answer to a transaction presented in its cycle. -/

namespace Sys2Proof.Machine

theorem step_of_reset {s : State} {req : Bool} {rest : List Event} (h : s.inputs = .reset req :: rest) :
    step s = .next (applyReset req (s.withInputs rest)) := by
  rw [step, fetch_reset h]

/-- A transaction presented in the reset cycle is ignored. -/
theorem applyReset_true_resp (s : State) : (applyReset true s).resp = .resetIgnored := rfl

/-- A quiet reset leaves the reset state as it is. -/
theorem applyReset_false_reset : applyReset false State.reset = State.reset := rfl

/-- Settles O47: the step is `applyReset`, which takes every field but the parameters and the script from the reset
state, and after which every register reads 0. -/
theorem resetClearsEverything : Obligations.ResetClearsEverything := by
  unfold Obligations.ResetClearsEverything
  refine ⟨fun s req rest hin => ?_, fun r => ?_, rfl, rfl⟩
  · refine ⟨_, step_of_reset hin, rfl, rfl, rfl, rfl, rfl, rfl, rfl, rfl, rfl, rfl, rfl, rfl, rfl, rfl, rfl, rfl, rfl,
      fun hreq => ?_, readReg_applyReset req _⟩
    rw [hreq, applyReset_true_resp]
    exact ⟨rfl, rfl⟩
  · rw [← applyReset_false_reset]
    exact readReg_applyReset false _ r

end Sys2Proof.Machine
end

section
/-! The encoder and the decoder (30_encoding.md R70 to R79): decoding gives an encoded instruction back. -/

namespace Sys2Proof

/-- The encoder's word of a CTRL write is decoded by its fields (30_encoding.md R71, R79). -/
theorem decode_writeT_ctrl (op : BitVec 3) (clr start : Bool) :
    decode (writeT .ctrl (commandWord op clr start)) = .instr (if start then startOf op clr else .ctrl op clr) := by
  rw [writeT, decode_packT, ← decodeCommand_commandWord]
  rfl

theorem decode_writeT_opa (d : Word) : decode (writeT .opa d) = .instr (.wrOpa d) := by
  rw [writeT, decode_packT]
  rfl

theorem decode_writeT_opb (d : Word) : decode (writeT .opb d) = .instr (.wrOpb d) := by
  rw [writeT, decode_packT]
  rfl

theorem decode_readT (r : Reg) : decode (readT r) = .instr (readOf r) := by
  rw [readT, decode_packT]
  cases r <;> rfl

/-- The decoder inverts the encoder. -/
theorem decode_encode (i : Instr) : decode (encode i) = .instr i := by
  cases i with
  | gcd clr => exact decode_writeT_ctrl 0#3 clr true
  | egcd clr => exact decode_writeT_ctrl 1#3 clr true
  | modinv clr => exact decode_writeT_ctrl 2#3 clr true
  | illegalOp3 clr => exact decode_writeT_ctrl 3#3 clr true
  | illegalOp4 clr => exact decode_writeT_ctrl 4#3 clr true
  | illegalOp5 clr => exact decode_writeT_ctrl 5#3 clr true
  | illegalOp6 clr => exact decode_writeT_ctrl 6#3 clr true
  | illegalOp7 clr => exact decode_writeT_ctrl 7#3 clr true
  | ctrl op clr => exact decode_writeT_ctrl op clr false
  | wrOpa d => exact decode_writeT_opa d
  | wrOpb d => exact decode_writeT_opb d
  | rdCtrl => exact decode_readT .ctrl
  | rdStatus => exact decode_readT .status
  | rdOpa => exact decode_readT .opa
  | rdOpb => exact decode_readT .opb
  | rdResG => exact decode_readT .resG
  | rdResX => exact decode_readT .resX
  | rdResY => exact decode_readT .resY
  | rdResInv => exact decode_readT .resInv
  | rdIters => exact decode_readT .iters

/-- The encoder writes the bits that are not read as 0: its word is what encoding leaves of it (30_encoding.md R74). -/
theorem canonical_encode (i : Instr) : (encode i).canonical = true := by
  have hclear : encode i = encode i &&& ~~~ (encode i).ignoredMask := encode_of_decode (decode_encode i)
  rw [TWord.canonical, beq_iff_eq, hclear, ignoredMask_clear_ignored, BitVec.and_assoc, BitVec.and_comm (~~~ _),
    BitVec.and_not_self]
  exact BitVec.and_zero

/-- A number is read as the transaction word it is, if it has no more than 41 bits (30_encoding.md R70). -/
theorem decodeTableWord_eq_some_iff {nbits w : Nat} {i : Instr} :
    decodeTableWord nbits w = some i ↔ w < 2 ^ 41 ∧ decode (BitVec.ofNat 41 w) = .instr i := by
  unfold decodeTableWord
  by_cases hw : w < 2 ^ 41
  · rw [if_pos hw]
    cases hd : decode (BitVec.ofNat 41 w) <;>
      simp only [hw, true_and, Option.some.injEq, Decoded.instr.injEq, reduceCtorEq]
  · rw [if_neg hw]
    simp only [hw, false_and, reduceCtorEq]

/-- Settles O1: the encoder's word has the fields of its instruction, and encoding what is decoded from it clears the
bits that are not read. -/
theorem decodeUndoesEncode : Obligations.DecodeUndoesEncode := by
  unfold Obligations.DecodeUndoesEncode
  intro i
  refine ⟨decode_encode i, canonical_encode i, decodeTableWord_eq_some_iff.mpr ⟨(encode i).isLt, ?_⟩⟩
  rw [BitVec.ofNat_toNat, BitVec.setWidth_eq, decode_encode]

/-- Settles O3: each word is closed, and the decoder is run on it. -/
theorem vectorWordsDecode : Obligations.VectorWordsDecode := by
  unfold Obligations.VectorWordsDecode
  decide

end Sys2Proof
end

section
/-! The outcomes of a step (00_scope.md R2, 20_memory.md R50, R52, 60_exceptions.md R160): an access that decodes to an
instruction, a poll of `wait`, and the faults. -/

namespace Sys2Proof.Machine

/-- Bit 0 of STATUS is BUSY (10_state.md R24). -/
theorem statusWord_getLsbD_zero (s : State) : (statusWord s).getLsbD 0 = s.busy := by
  simp only [statusWord, BitVec.getLsbD_append, BitVec.getLsbD_ofBool]
  simp

/-- After a poll in RUN the host polls again, after an engine step (30_encoding.md R78, log entry 12). -/
theorem afterPoll_eq (s : State) (rest : List Event) :
    afterPoll s rest = if s.fsm = .run then .engine :: .wait :: rest else rest := by
  rw [afterPoll, statusWord_getLsbD_zero]
  cases h : s.fsm <;> simp [State.busy, h]

/-- A poll of `wait` is a read of STATUS (30_encoding.md R78). -/
theorem step_wait {s : State} {rest : List Event} (h : s.inputs = .wait :: rest) :
    step s = exec .rdStatus (s.withInputs (if s.fsm = .run then .engine :: .wait :: rest else rest)) := by
  rw [step, fetch_wait h, afterPoll_eq]

/-- Settles O7: the decoder reads the fields of the access, and bit 0 of STATUS is BUSY. -/
theorem stepRunsTheDecodedTransaction : Obligations.StepRunsTheDecodedTransaction := by
  unfold Obligations.StepRunsTheDecodedTransaction
  refine ⟨fun s a rest off i hin hoff hd => ?_, fun s rest hin => step_wait hin⟩
  rw [decode_packT] at hd
  exact step_host_of_instr hin hoff hd

/-- Settles O8: the access made from a word has the word's fields, at an offset of the window, whatever BASE. -/
theorem placedWordRunsNext : Obligations.PlacedWordRunsNext := by
  unfold Obligations.PlacedWordRunsNext
  intro s nbits w i h
  obtain ⟨-, hd⟩ := decodeTableWord_eq_some_iff.mp h
  exact step_host_of_instr (s := s.withFetchWord nbits w) rfl (windowOffset_add s.params _) hd

/-- The bus errors with which the model goes on (log entry 5). -/
theorem busErrorFaults_eq_false_iff (we : Bool) (size : BitVec 2) (off : Offset) :
    busErrorFaults we size off = false ↔ we = true ∧ size ≠ 3#2 ∧ off.toNat < 0x24 := by
  simp [busErrorFaults, and_assoc, Nat.lt_succ_iff]

/-- Settles O6: an access that is not legal raises the bus error, and `busErrorFaults` divides these as stated. -/
theorem busErrorsThatEndTheRun : Obligations.BusErrorsThatEndTheRun := by
  unfold Obligations.BusErrorsThatEndTheRun
  intro s a rest off hin hoff hlegal
  have hiff := busErrorFaults_eq_false_iff a.we a.size off
  rw [step_host_of_busErr hin hoff (decodeFields_of_not_legal hlegal a.wdata)]
  rcases raiseBusError_cases a.we a.size off (busErrorCause a.size off) (s.withInputs rest) with ⟨hf, hb⟩ | ⟨hf, hb⟩
  · rw [if_neg (mt hiff.mpr (by simp [hf]))]
    exact ⟨_, hb⟩
  · rw [if_pos (hiff.mp hf)]
    exact hb

theorem windowOffset_eq_none_iff (p : Params) (addr : Nat) :
    windowOffset p addr = none ↔ addr < p.base ∨ p.base + 64 ≤ addr := by
  rw [windowOffset, ite_eq_right_iff]
  simp only [reduceCtorEq, imp_false]
  omega

/-- An access outside the window is a fault, with the event taken (log entry 13). -/
theorem step_host_of_outside {s : State} {a : Access} {rest : List Event} (hin : s.inputs = .host a :: rest)
    (hoff : windowOffset s.params a.addr = none) :
    step s = .fault (.outsideWindow a.addr { s with inputs := rest }) := by
  simp only [step, fetch_host hin, present, State.withInputs_params, hoff]
  rfl

/-- A step answers a next state, or faults a host access: one that is not legal, or one outside the window. -/
theorem step_outcomes (s : State) :
    (∃ t, step s = .next t) ∨
    (∃ a rest off c, s.inputs = .host a :: rest ∧ legal a.we a.size off = false ∧
      step s = .fault (.busError off c { s with inputs := rest, resp := .busError })) ∨
    (∃ a rest, s.inputs = .host a :: rest ∧ windowOffset s.params a.addr = none ∧
      step s = .fault (.outsideWindow a.addr { s with inputs := rest })) := by
  cases hin : s.inputs with
  | nil => exact .inl ⟨_, step_of_engineMoves (.inl hin)⟩
  | cons e rest =>
    cases e with
    | engine => exact .inl ⟨_, step_of_engineMoves (.inr ⟨rest, hin⟩)⟩
    | reset req => exact .inl ⟨_, step_of_reset hin⟩
    | wait => exact .inl ⟨_, step_wait hin⟩
    | host a =>
      cases hoff : windowOffset s.params a.addr with
      | none => exact .inr (.inr ⟨a, rest, rfl, hoff, step_host_of_outside hin hoff⟩)
      | some off =>
        cases hlegal : legal a.we a.size off with
        | true =>
          obtain ⟨t, ht, -⟩ := step_host_of_legal hin hoff hlegal
          exact .inl ⟨t, ht⟩
        | false =>
          rcases step_host_of_not_legal hin hoff hlegal with hb | ⟨c, hb⟩
          · exact .inl ⟨_, hb⟩
          · exact .inr (.inl ⟨a, rest, off, c, rfl, hlegal, hb⟩)

/-- Settles O9: the faults are those of `step_outcomes`, and no outcome is a refusal. -/
theorem faultsLeaveTheBlockUnchanged : Obligations.FaultsLeaveTheBlockUnchanged := by
  unfold Obligations.FaultsLeaveTheBlockUnchanged
  intro s
  rcases step_outcomes s with ⟨t, h⟩ | ⟨a, rest, off, c, hin, hlegal, h⟩ | ⟨a, rest, hin, hoff, h⟩ <;> rw [h]
  · simp
  · refine ⟨by simp, ?_, by simp⟩
    rintro _ _ _ ⟨⟩
    rw [hin]
    exact ⟨rfl, a, rfl, hlegal⟩
  · refine ⟨by simp, by simp, ?_⟩
    rintro _ _ ⟨⟩
    rw [hin]
    exact ⟨rfl, (windowOffset_eq_none_iff _ _).mp hoff⟩

end Sys2Proof.Machine
end

section
/-! What the reads, the operand writes and the CTRL writes leave unchanged, in the state and in the bytes of the window
(20_memory.md R54, R57 to R59), and what a START does in IDLE and in RUN (40_engine.md R90, R91). -/

namespace Sys2Proof.Machine

/-- A byte of the window belongs to the register that starts at most 3 bytes below it (20_memory.md R53, R54). -/
theorem regAt_aligned_range {off : Offset} {r : Reg} (h : regAt (off &&& 0x3C#6) = some r) :
    r.offset.toNat ≤ off.toNat ∧ off.toNat ≤ r.offset.toNat + 3 := by
  revert off
  cases r <;> decide

/-- A byte of the window reads as before where its register does. -/
theorem windowByte_congr {s t : State} {off : Offset}
    (h : ∀ r : Reg, r.offset.toNat ≤ off.toNat → off.toNat ≤ r.offset.toNat + 3 → readReg t r = readReg s r) :
    windowByte t off = windowByte s off := by
  unfold windowByte
  cases hr : regAt (off &&& 0x3C#6) with
  | none => rfl
  | some r =>
    obtain ⟨hlow, hhigh⟩ := regAt_aligned_range hr
    rw [Option.map_some, Option.map_some, h r hlow hhigh]

/-- The last answer is in no register. -/
theorem readReg_withResp (s : State) (v : Response) (r : Reg) : readReg (s.withResp v) r = readReg s r := by
  cases r <;> rfl

/-- Settles O13: a read answers with `withResp`, and no register holds the answer. -/
theorem readsChangeNothing : Obligations.ReadsChangeNothing := by
  unfold Obligations.ReadsChangeNothing
  intro i s t hctrl hwrite h
  rcases exec_of_not_ctrl hctrl s with ⟨d, hi, -⟩ | ⟨d, hi, -⟩ | ⟨r, -, he⟩
  · exact absurd hi (hwrite d).1
  · exact absurd hi (hwrite d).2
  · rw [he] at h
    obtain rfl := Host.Outcome.next.inj h
    exact ⟨rfl, fun off => windowByte_congr fun r' _ _ => readReg_withResp s _ r'⟩

/-- A write of OPA shows in no other register. -/
theorem readReg_withOpa_of_ne (s : State) (v : Word) {r : Reg} (h : r ≠ .opa) :
    readReg (s.withOpa v) r = readReg s r := by
  cases r with
  | opa => exact absurd rfl h
  | _ => rfl

/-- A write of OPB shows in no other register. -/
theorem readReg_withOpb_of_ne (s : State) (v : Word) {r : Reg} (h : r ≠ .opb) :
    readReg (s.withOpb v) r = readReg s r := by
  cases r with
  | opb => exact absurd rfl h
  | _ => rfl

/-- Settles O14: a byte outside the operand's four is of another register. -/
theorem operandWriteFrame : Obligations.OperandWriteFrame := by
  unfold Obligations.OperandWriteFrame
  refine fun d s t => ⟨fun h => ?_, fun h => ?_⟩ <;> obtain rfl := Host.Outcome.next.inj h <;>
    refine ⟨rfl, fun off hoff => windowByte_congr fun r hlow hhigh => ?_⟩
  · have hr : r ≠ .opa := by
      rintro rfl
      simp only [Reg.offset, BitVec.toNat_ofNat] at hlow hhigh
      omega
    exact (readReg_withResp _ _ r).trans (readReg_withOpa_of_ne s _ hr)
  · have hr : r ≠ .opb := by
      rintro rfl
      simp only [Reg.offset, BitVec.toNat_ofNat] at hlow hhigh
      omega
    exact (readReg_withResp _ _ r).trans (readReg_withOpb_of_ne s _ hr)

/-- Settles O16: each of the three commands starts with a legal OP. -/
theorem startIsAcceptedInIdle : Obligations.StartIsAcceptedInIdle := by
  unfold Obligations.StartIsAcceptedInIdle
  intro s clr hidle a b started
  exact ⟨exec_of_starts (i := .gcd clr) (c := .gcd) rfl rfl hidle,
    exec_of_starts (i := .egcd clr) (c := .egcd) rfl rfl hidle,
    exec_of_starts (i := .modinv clr) (c := .modinv) rfl rfl hidle⟩

/-- A START with an illegal OP is rejected in IDLE (40_engine.md R90). -/
theorem exec_of_illegal_starts {i : Instr} {op : BitVec 3} {clr : Bool} {s : State} (hi : i.Starts op clr)
    (hc : commandOf op = none) (hidle : s.fsm = .idle) :
    exec i s = .next { s with
      op := op, done := true, noinv := false, ovr := if clr then false else s.ovr, err := errIllop
      resp := .writeDone } := by
  have hreject : start op (applyClr clr (s.withOp op)) = rejectIllegal (applyClr clr (s.withOp op)) := by
    simp [start, applyClr_eq, hidle, hc]
  rw [exec_ctrlFields hi, ctrlWrite, if_pos rfl, hreject]
  cases clr <;> rfl

/-- Settles O17: each of the five starts with an illegal OP. -/
theorem illegalCommandIsRejectedInIdle : Obligations.IllegalCommandIsRejectedInIdle := by
  unfold Obligations.IllegalCommandIsRejectedInIdle
  intro s clr hidle rejected
  exact ⟨exec_of_illegal_starts (i := .illegalOp3 clr) rfl rfl hidle,
    exec_of_illegal_starts (i := .illegalOp4 clr) rfl rfl hidle,
    exec_of_illegal_starts (i := .illegalOp5 clr) rfl rfl hidle,
    exec_of_illegal_starts (i := .illegalOp6 clr) rfl rfl hidle,
    exec_of_illegal_starts (i := .illegalOp7 clr) rfl rfl hidle⟩

/-- CLR leaves the FSM state alone, and so does the store of OP before it. -/
theorem applyClr_withOp_fsm (clr : Bool) (op : BitVec 3) (s : State) : (applyClr clr (s.withOp op)).fsm = s.fsm := by
  cases clr <;> rfl

/-- Settles O18: after OP is stored and CLR applied, a START in RUN only sets OVR. -/
theorem startIsDroppedInRun : Obligations.StartIsDroppedInRun := by
  unfold Obligations.StartIsDroppedInRun
  intro s i op clr hrun hi
  rw [exec_ctrlFields hi, ctrlWrite, if_pos rfl, start_of_run ((applyClr_withOp_fsm clr op s).trans hrun)]
  cases clr <;> rfl

/-- A CTRL write changes OP, the flags, and where a START is accepted the FSM state and the working registers
(40_engine.md R90, R91). -/
theorem ctrlWrite_frame (op : BitVec 3) (clr startBit : Bool) (s : State) :
    ∃ done noinv ovr err fsm wk,
      ctrlWrite op clr startBit s =
        { s with op := op, done := done, noinv := noinv, ovr := ovr, err := err, fsm := fsm, wk := wk } ∧
      (¬ (s.fsm = .idle ∧ startBit = true ∧ op.toNat < 3) → fsm = s.fsm ∧ wk = s.wk) := by
  cases startBit with
  | false => exact ⟨_, _, _, _, _, _, applyClr_eq clr (s.withOp op), fun _ => ⟨rfl, rfl⟩⟩
  | true =>
    rw [ctrlWrite, if_pos rfl]
    rcases start_cases op (applyClr clr (s.withOp op)) with ⟨-, h⟩ | ⟨hidle, c, hc, h⟩ | ⟨-, -, h⟩ <;>
      rw [h, applyClr_eq]
    · exact ⟨_, _, _, _, _, _, rfl, fun _ => ⟨rfl, rfl⟩⟩
    · have hop : op.toNat < 3 := (commandOf_isSome op).mp (by rw [hc]; rfl)
      rw [applyClr_withOp_fsm] at hidle
      exact ⟨_, _, _, _, _, _, rfl, fun hnot => absurd ⟨hidle, rfl, hop⟩ hnot⟩
    · exact ⟨_, _, _, _, _, _, rfl, fun _ => ⟨rfl, rfl⟩⟩

/-- What a CTRL write changes shows in CTRL and STATUS only (20_memory.md R58). -/
theorem readReg_of_ctrl_fields (s : State) (op : BitVec 3) (done noinv ovr : Bool) (err : BitVec 4) (fsm : Fsm)
    (wk : Working) {r : Reg} (hctrl : r ≠ .ctrl) (hstatus : r ≠ .status) :
    readReg { s with op := op, done := done, noinv := noinv, ovr := ovr, err := err, fsm := fsm, wk := wk } r =
      readReg s r := by
  cases r with
  | ctrl => exact absurd rfl hctrl
  | status => exact absurd rfl hstatus
  | _ => rfl

/-- Settles O21: a byte from 0x08 on is of a register that is neither CTRL nor STATUS. -/
theorem controlWriteFrame : Obligations.ControlWriteFrame := by
  unfold Obligations.ControlWriteFrame
  intro i s t op clr startBit hi h
  rw [exec_ctrlFields hi] at h
  obtain rfl := Host.Outcome.next.inj h
  obtain ⟨done, noinv, ovr, err, fsm, wk, hw, hstays⟩ := ctrlWrite_frame op clr startBit s
  rw [hw]
  refine ⟨rfl, hstays, fun off hoff => windowByte_congr fun r _ hhigh => (readReg_withResp _ _ r).trans ?_⟩
  refine readReg_of_ctrl_fields s op done noinv ovr err fsm wk ?_ ?_ <;>
    · rintro rfl
      simp only [Reg.offset, BitVec.toNat_ofNat] at hhigh
      omega

end Sys2Proof.Machine
end

section
/-! The engine's step in the machine and in the clock cycles (40_engine.md R94, 70_reset_and_hazards.md R188), and the
completions of the three commands (40_engine.md R96, 41_gcd.md R120, 42_egcd.md R130, 43_modinv.md R140). -/

namespace Sys2Proof.Machine

/-- The events of a cycle that begins in RUN end with the engine's step. -/
theorem cycle_of_run {p : PinsIn} {s : State} (h : p.rst = false) (hs : s.fsm = .run) :
    cycle p s = (if p.req then [.host (p.access s.params.base)] else []) ++ [.engine] := by
  simp [cycle, h, hs]

/-- The events of a cycle that begins in IDLE are what the host presents. -/
theorem cycle_of_idle {p : PinsIn} {s : State} (h : p.rst = false) (hs : s.fsm = .idle) :
    cycle p s = if p.req then [.host (p.access s.params.base)] else [] := by
  simp [cycle, h, hs]

/-- The engine's step is none in IDLE; in RUN it is an iteration, or the completion (40_engine.md R94). -/
theorem engineStep_cases (s : State) :
    (s.fsm = .idle ∧ engineStep s = s) ∨
    (s.fsm = .run ∧ s.wk.r1 ≠ 0 ∧ engineStep s = s.withWk (iterate s.wk)) ∨
    (s.fsm = .run ∧ s.wk.r1 = 0 ∧ engineStep s = complete s) := by
  cases hfsm : s.fsm with
  | idle => exact .inl ⟨rfl, engineStep_idle hfsm⟩
  | run =>
    by_cases h1 : s.wk.r1 = 0
    · exact .inr (.inr ⟨rfl, h1, engineStep_complete hfsm h1⟩)
    · exact .inr (.inl ⟨rfl, h1, engineStep_iterate hfsm h1⟩)

/-- Settles O23: the engine's move is `engineStep`, and `cycle` gives it one in a cycle that begins in RUN. -/
theorem engineStepsExactlyInRun : Obligations.EngineStepsExactlyInRun := by
  unfold Obligations.EngineStepsExactlyInRun
  refine ⟨fun s hmoves => ?_, fun p s hrst => ⟨fun hrun => ?_, fun hidle => ?_⟩⟩
  · rw [step_of_engineMoves hmoves]
    refine ⟨fun hidle => ?_, fun hrun h1 => ?_, fun hrun h1 => ?_⟩
    · rw [engineStep_idle (s := s.withInputs s.inputs.tail) hidle]
      rfl
    · rw [engineStep_iterate (s := s.withInputs s.inputs.tail) hrun h1]
      rfl
    · rw [engineStep_complete (s := s.withInputs s.inputs.tail) hrun h1]
      exact ⟨_, rfl, complete_fsm _, complete_done _⟩
  · rw [cycle_of_run hrst hrun, List.getLast?_concat]
  · rw [cycle_of_idle hrst hidle]
    cases p.req <;> simp

/-- The completion of GCD (41_gcd.md R120). -/
theorem complete_of_gcd {s : State} (h : s.wk.op = .gcd) :
    complete s = { s with
      fsm := .idle, done := true
      resG := { word := u32 s.wk.r0.natAbs, reading := .unsigned }
      resX := 0#32, resY := 0#32, resInv := 0#32, iters := u32 s.wk.k.toNat } := by
  simp only [complete, commandComplete, h, gcdComplete]

/-- The completion of EGCD (42_egcd.md R130). -/
theorem complete_of_egcd {s : State} (h : s.wk.op = .egcd) :
    complete s = { s with
      fsm := .idle, done := true
      resG := { word := signedResult s.params.W s.wk.r0, reading := .signed }
      resX := signedResult s.params.W s.wk.s0, resY := signedResult s.params.W s.wk.t0
      resInv := 0#32, iters := u32 s.wk.k.toNat } := by
  simp only [complete, commandComplete, h, egcdComplete, storeTriple]

/-- The completion of MODINV but for the inverse (43_modinv.md R140). -/
theorem complete_of_modinv {s : State} (h : s.wk.op = .modinv) :
    complete s = { storeInverse (storeTriple s) with fsm := .idle, done := true, iters := u32 s.wk.k.toNat } := by
  simp only [complete, commandComplete, h, modinvComplete]

/-- Settles O25: `complete_of_gcd` and `complete_of_egcd`. -/
theorem gcdAndEgcdCompletionStep : Obligations.GcdAndEgcdCompletionStep := by
  unfold Obligations.GcdAndEgcdCompletionStep
  intro s hmoves hrun h1
  rw [step_of_engineMoves hmoves, engineStep_complete (s := s.withInputs s.inputs.tail) hrun h1]
  refine ⟨fun hop => ⟨_, rfl, ?_⟩, fun hop => ⟨_, rfl, ?_⟩⟩
  · rw [complete_of_gcd (s := s.withInputs s.inputs.tail) hop]
    rfl
  · rw [complete_of_egcd (s := s.withInputs s.inputs.tail) hop]
    rfl

/-- Settles O26: the three ways of `storeInverse` to store the inverse. -/
theorem modinvCompletionStep : Obligations.ModinvCompletionStep := by
  unfold Obligations.ModinvCompletionStep
  intro s hmoves hrun h1 hop
  rw [step_of_engineMoves hmoves, engineStep_complete (s := s.withInputs s.inputs.tail) hrun h1,
    complete_of_modinv (s := s.withInputs s.inputs.tail) hop]
  refine ⟨_, rfl, ?_⟩
  rcases storeInverse_cases (storeTriple (s.withInputs s.inputs.tail)) with ⟨h0, h⟩ | ⟨h0, hb, h⟩ | ⟨h0, hb, h⟩ <;>
    rw [h]
  · exact ⟨rfl, fun _ => ⟨rfl, rfl, rfl⟩, fun h1 => absurd h1 h0, fun h1 => absurd h1 h0⟩
  · exact ⟨rfl, fun h1 => absurd h0 h1, fun _ _ => ⟨rfl, rfl⟩, fun _ hb' => absurd hb hb'⟩
  · refine ⟨rfl, fun h1 => absurd h0 h1, fun _ hb' => absurd hb' hb, fun _ _ => ⟨rfl, rfl, ?_⟩⟩
    rw [← fmod_eq]
    rfl

end Sys2Proof.Machine
end

section
/-! Who writes the STATUS fields (10_state.md R34), over every step, and what STATUS reads in RUN (40_engine.md R100,
70_reset_and_hazards.md R186, R187). -/

namespace Sys2Proof.Machine

/-- What STATUS shows: the FSM state, DONE, NOINV, OVR and ERR (10_state.md R24). -/
def State.statusFields (s : State) : Fsm × Bool × Bool × Bool × BitVec 4 := (s.fsm, s.done, s.noinv, s.ovr, s.err)

/-- An instruction is one of five: a read or an operand write, the control form, an overrun, an acceptance, or a
rejection (40_engine.md R90, R91). -/
theorem exec_cases {i : Instr} {s t : State} (h : exec i s = .next t) :
    (∃ a b r, t = { s with opa := a, opb := b, resp := r } ∧
      (a = s.opa ∨ ∃ d, a = lowBits s.params.W d) ∧ (b = s.opb ∨ ∃ d, b = lowBits s.params.W d)) ∨
    (∃ op clr, i.ctrlFields = some (op, clr, false) ∧ t = (applyClr clr (s.withOp op)).withResp .writeDone) ∨
    (∃ op clr, i.Starts op clr ∧ s.fsm = .run ∧
      t = ((applyClr clr (s.withOp op)).withOvr true).withResp .writeDone) ∨
    (∃ op clr c, i.Starts op clr ∧ s.fsm = .idle ∧ commandOf op = some c ∧ t = s.startedWith op clr c) ∨
    (∃ op clr, i.Starts op clr ∧ s.fsm = .idle ∧ commandOf op = none ∧
      t = (rejectIllegal (applyClr clr (s.withOp op))).withResp .writeDone) := by
  cases hf : i.ctrlFields with
  | none =>
    refine .inl ?_
    rcases exec_of_not_ctrl hf s with ⟨d, -, he⟩ | ⟨d, -, he⟩ | ⟨r, -, he⟩ <;> rw [he] at h <;>
      obtain rfl := Host.Outcome.next.inj h
    · exact ⟨_, _, _, rfl, .inr ⟨d, rfl⟩, .inl rfl⟩
    · exact ⟨_, _, _, rfl, .inl rfl, .inr ⟨d, rfl⟩⟩
    · exact ⟨_, _, _, rfl, .inl rfl, .inl rfl⟩
  | some f =>
    obtain ⟨op, clr, startBit⟩ := f
    refine .inr ?_
    cases startBit with
    | false =>
      rw [exec_ctrlFields hf] at h
      exact .inl ⟨op, clr, rfl, (Host.Outcome.next.inj h).symm⟩
    | true =>
      refine .inr ?_
      cases hfsm : s.fsm with
      | run =>
        rw [exec_ctrlFields hf, ctrlWrite, if_pos rfl, start_of_run ((applyClr_withOp_fsm clr op s).trans hfsm)] at h
        exact .inl ⟨op, clr, hf, rfl, (Host.Outcome.next.inj h).symm⟩
      | idle =>
        refine .inr ?_
        cases hc : commandOf op with
        | some c =>
          rw [exec_of_starts hf hc hfsm] at h
          exact .inl ⟨op, clr, c, hf, rfl, hc, (Host.Outcome.next.inj h).symm⟩
        | none =>
          rw [exec_of_illegal_starts hf hc hfsm] at h
          refine .inr ⟨op, clr, hf, rfl, hc, (Host.Outcome.next.inj h).symm.trans ?_⟩
          cases clr <;> rfl

/-- A completion sets DONE; MODINV alone sets NOINV, or ERR (43_modinv.md R140). -/
theorem complete_statusFields (s : State) :
    ∃ noinv err, (complete s).statusFields = (.idle, true, noinv, s.ovr, err) ∧
      ((noinv = s.noinv ∧ err = s.err) ∨
        (s.wk.op = .modinv ∧ s.wk.r0 ≠ 1 ∧ noinv = true ∧ err = s.err) ∨
        (s.wk.op = .modinv ∧ s.wk.r0 = 1 ∧ s.wk.b = 0 ∧ noinv = s.noinv ∧ err = errModzero)) := by
  cases hop : s.wk.op with
  | gcd =>
    rw [complete_of_gcd hop]
    exact ⟨_, _, rfl, .inl ⟨rfl, rfl⟩⟩
  | egcd =>
    rw [complete_of_egcd hop]
    exact ⟨_, _, rfl, .inl ⟨rfl, rfl⟩⟩
  | modinv =>
    rw [complete_of_modinv hop]
    rcases storeInverse_cases (storeTriple s) with ⟨h0, h⟩ | ⟨h0, hb, h⟩ | ⟨-, -, h⟩ <;> rw [h]
    · exact ⟨_, _, rfl, .inr (.inl ⟨rfl, h0, rfl, rfl⟩)⟩
    · exact ⟨_, _, rfl, .inr (.inr ⟨rfl, h0, hb, rfl, rfl⟩)⟩
    · exact ⟨_, _, rfl, .inl ⟨rfl, rfl⟩⟩

/-- What a CTRL write with CLR as given does to STATUS: CLR, an overrun, an acceptance or a rejection. -/
def State.CtrlStatus (s t : State) (clr : Bool) : Prop :=
  t.statusFields = (s.fsm, !clr && s.done, !clr && s.noinv, !clr && s.ovr, if clr then errNone else s.err) ∨
  (s.Overruns ∧ t.statusFields = (s.fsm, !clr && s.done, !clr && s.noinv, true, if clr then errNone else s.err)) ∨
  (s.Accepts ∧ t.statusFields = (.run, false, false, !clr && s.ovr, errNone)) ∨
  (s.Rejects ∧ t.statusFields = (.idle, true, false, !clr && s.ovr, errIllop))

/-- What an instruction, run by the next step, does to STATUS: nothing, or what a CTRL write does. -/
theorem exec_statusFields {i : Instr} {l : List Event} {s t : State} (hfetch : fetch s = .instr i (s.withInputs l))
    (h : exec i (s.withInputs l) = .next t) :
    t.statusFields = s.statusFields ∨ ∃ clr, (clr = true → s.Clears) ∧ s.CtrlStatus t clr := by
  have hruns : s.Runs i := ⟨_, hfetch⟩
  have hclears {op : BitVec 3} {clr startBit : Bool} (hi : i.ctrlFields = some (op, clr, startBit)) :
      clr = true → s.Clears := by
    rintro rfl
    exact ⟨i, hruns, op, startBit, hi⟩
  rcases exec_cases h with ⟨a, b, r, rfl, -, -⟩ | ⟨op, clr, hi, rfl⟩ | ⟨op, clr, hi, hrun, rfl⟩ |
    ⟨op, clr, c, hi, hidle, hc, rfl⟩ | ⟨op, clr, hi, hidle, hc, rfl⟩
  · exact .inl rfl
  · refine .inr ⟨clr, hclears hi, .inl ?_⟩
    rw [applyClr_eq]
    rfl
  · refine .inr ⟨clr, hclears hi, .inr (.inl ⟨⟨hrun, i, op, clr, hruns, hi⟩, ?_⟩)⟩
    rw [applyClr_eq]
    rfl
  · have hop : op.toNat < 3 := (commandOf_isSome op).mp (by rw [hc]; rfl)
    refine .inr ⟨clr, hclears hi, .inr (.inr (.inl ⟨⟨hidle, i, op, clr, hruns, hi, hop⟩, ?_⟩))⟩
    cases clr <;> rfl
  · have hop : 3 ≤ op.toNat := by
      rw [← not_lt, ← commandOf_isSome, hc]
      decide
    refine .inr ⟨clr, hclears hi, .inr (.inr (.inr ⟨⟨hidle, i, op, clr, hruns, hi, hop⟩, ?_⟩))⟩
    change s.fsm = .idle at hidle
    rw [applyClr_eq]
    simp [State.statusFields, rejectIllegal, hidle]

/-- What a step does to STATUS. -/
theorem step_statusFields {s t : State} (h : step s = .next t) :
    t.statusFields = s.statusFields ∨
    (s.Resets ∧ t.statusFields = (.idle, false, false, false, errNone)) ∨
    (s.Completes ∧ ∃ noinv err, t.statusFields = (.idle, true, noinv, s.ovr, err) ∧
      ((noinv = s.noinv ∧ err = s.err) ∨
        (s.wk.op = .modinv ∧ s.wk.r0 ≠ 1 ∧ noinv = true ∧ err = s.err) ∨
        (s.wk.op = .modinv ∧ s.wk.r0 = 1 ∧ s.wk.b = 0 ∧ noinv = s.noinv ∧ err = errModzero))) ∨
    (∃ clr, (clr = true → s.Clears) ∧ s.CtrlStatus t clr) := by
  rcases step_cases h with ⟨hmoves, rfl⟩ | ⟨req, rest, hin, rfl⟩ | ⟨i, l, hfetch, hexec⟩ | ⟨a, rest, off, -, -, -, rfl⟩
  · rcases engineStep_cases (s.withInputs s.inputs.tail) with ⟨-, h⟩ | ⟨-, -, h⟩ | ⟨hrun, h1, h⟩ <;> rw [h]
    · exact .inl rfl
    · exact .inl rfl
    · exact .inr (.inr (.inl ⟨⟨hmoves, hrun, h1⟩, complete_statusFields (s.withInputs s.inputs.tail)⟩))
  · exact .inr (.inl ⟨⟨req, rest, hin⟩, rfl⟩)
  · rcases exec_statusFields hfetch hexec with hsame | hctrl
    · exact .inl hsame
    · exact .inr (.inr (.inr hctrl))
  · exact .inl rfl

/-- Settles O22: each of the ways in which a step writes STATUS, against the list of writers. -/
theorem statusWritersAreComplete : Obligations.StatusWritersAreComplete := by
  unfold Obligations.StatusWritersAreComplete
  intro s t hstep
  rcases step_statusFields hstep with ht | ⟨hresets, ht⟩ | ⟨hcompletes, noinv, err, ht, hflags⟩ |
    ⟨clr, hclears, ht | ⟨hoverruns, ht⟩ | ⟨haccepts, ht⟩ | ⟨hrejects, ht⟩⟩ <;>
    simp only [State.statusFields, Prod.mk.injEq] at ht <;> obtain ⟨hfsm, hdone, hnoinv, hovr, herr⟩ := ht <;>
    rw [hfsm, hdone, hnoinv, hovr, herr]
  · simp +contextual
  · simp +contextual [hresets, errNone]
  · have hrun : s.fsm = .run := hcompletes.2.1
    rcases hflags with ⟨rfl, rfl⟩ | ⟨hop, h0, rfl, rfl⟩ | ⟨hop, h0, hb, rfl, rfl⟩
    · simp +contextual [hcompletes, hrun]
    · simp +contextual [hcompletes, hrun, hop, h0]
    · simp +contextual [hcompletes, hrun, hop, h0, hb, errModzero]
  · cases clr with
    | false => simp +contextual
    | true => simp +contextual [hclears rfl, errNone]
  · cases clr with
    | false => simp +contextual [hoverruns]
    | true => simp +contextual [hoverruns, hclears rfl, errNone]
  · have hidle : s.fsm = .idle := haccepts.1
    cases clr with
    | false => simp +contextual [haccepts, hidle, errNone]
    | true => simp +contextual [haccepts, hidle, hclears rfl, errNone]
  · have hidle : s.fsm = .idle := hrejects.1
    cases clr with
    | false => simp +contextual [hrejects, hidle, errIllop]
    | true => simp +contextual [hrejects, hidle, hclears rfl, errIllop]

/-- In a legal RUN state DONE, NOINV and ERR are 0 (40_engine.md R100). -/
theorem State.Inv.runFits {s : State} (h : s.Inv) (hrun : s.fsm = .run) : s.RunFits := by
  obtain ⟨-, -, -, -, -, -, -, -, hfits⟩ := h
  exact hfits hrun

/-- Settles O19: the flags are clear in RUN, and bit 0 of STATUS is BUSY. -/
theorem statusReadsBusyInRun : Obligations.StatusReadsBusyInRun := by
  unfold Obligations.StatusReadsBusyInRun
  refine ⟨fun s hinv hrun => ?_, fun s i op clr hidle hi hop => ?_⟩
  · obtain ⟨hdone, hnoinv, herr⟩ := (hinv.runFits hrun).flagsClear
    have hword : readReg s .status = if s.ovr then 0x00000009#32 else 0x00000001#32 := by
      rw [readReg_status, hdone, hnoinv, herr, if_pos hrun]
      cases s.ovr <;> rfl
    rw [← hword]
    exact exec_readOf .status s
  · obtain ⟨c, hc⟩ := Option.isSome_iff_exists.mp ((commandOf_isSome op).mpr hop)
    exact ⟨_, _, _, exec_of_starts hi hc hidle, exec_readOf .status _, rfl, statusWord_getLsbD_zero _⟩

/-- Settles O20: the flags that CLR clears are clear in RUN but for OVR, and only a completion or a reset writes
IDLE. -/
theorem clearDoesNotAbort : Obligations.ClearDoesNotAbort := by
  unfold Obligations.ClearDoesNotAbort
  refine ⟨fun s op hinv hrun => ?_, fun s t hrun hstep hidle => ?_⟩
  · obtain ⟨hdone, hnoinv, herr⟩ := (hinv.runFits hrun).flagsClear
    rw [exec_ctrl, applyClr_eq, ← herr]
    simp [State.withResp, State.withOp, hdone, hnoinv]
  · obtain ⟨-, hleaves, -⟩ := statusWritersAreComplete s t hstep
    exact hleaves hrun hidle

/-- An instruction writes the working registers only where it enters RUN (40_engine.md R91). -/
theorem exec_wk_or_run {i : Instr} {s t : State} (h : exec i s = .next t) : t.wk = s.wk ∨ t.fsm = .run := by
  rcases exec_cases h with ⟨a, b, r, rfl, -⟩ | ⟨op, clr, -, rfl⟩ | ⟨op, clr, -, hrun, rfl⟩ |
    ⟨op, clr, c, -, -, -, rfl⟩ | ⟨op, clr, -, -, -, rfl⟩
  · exact .inl rfl
  · rw [applyClr_eq]
    exact .inl rfl
  · rw [applyClr_eq]
    exact .inl rfl
  · exact .inr rfl
  · rw [applyClr_eq]
    exact .inl rfl

/-- Settles O54: an iteration stays in RUN, a completion keeps the working registers, and so does an instruction that
does not enter RUN. -/
theorem idleHoldsTheWorkingRegisters : Obligations.IdleHoldsTheWorkingRegisters := by
  unfold Obligations.IdleHoldsTheWorkingRegisters
  intro s t hstep hidle
  rcases step_cases hstep with ⟨-, rfl⟩ | ⟨req, rest, hin, rfl⟩ | ⟨i, l, -, hexec⟩ | ⟨a, rest, off, -, -, -, rfl⟩
  · rcases engineStep_cases (s.withInputs s.inputs.tail) with ⟨-, h⟩ | ⟨hrun, -, h⟩ | ⟨-, -, h⟩ <;> rw [h] at hidle ⊢
    · exact .inl rfl
    · exact absurd (hrun.symm.trans hidle) (by decide)
    · exact .inl (complete_wk _)
  · exact .inr ⟨req, rest, hin⟩
  · rcases exec_wk_or_run hexec with hwk | hrun
    · exact .inl hwk
    · exact absurd (hrun.symm.trans hidle) (by decide)
  · exact .inl rfl

end Sys2Proof.Machine
end

section
/-! Laws of the iteration (40_engine.md R97, R98): a running command completes, Lamé's bound on the divisions, and the
bounds of the working registers. -/

namespace Sys2Proof.Machine

/-- The count of the divisions of W-bit operands fits ITERS (40_engine.md R97). -/
theorem InRange.toNat_u32_divisions {W : Nat} {b : Int} (hlow : 4 ≤ W) (hhigh : W ≤ 32) (hb : InRange W b) (a : Int) :
    (u32 (divisions a b)).toNat = divisions a b := by
  have hbound := divisions_le_of_inRange (by omega) hb a
  rw [u32, BitVec.toNat_ofNat]
  omega

/-- No divisions are left exactly where the divisor is 0. -/
theorem divisions_eq_zero_iff (a m : Int) : divisions a m = 0 ↔ m = 0 := by
  refine ⟨fun h => ?_, fun h => by rw [h, divisions_zero]⟩
  by_contra hm
  rw [divisions_of_ne_zero a hm] at h
  exact Nat.succ_ne_zero _ h

/-- An iteration leaves one division fewer to come. -/
theorem divisions_iterate {w : Working} (h1 : w.r1 ≠ 0) :
    divisions w.r0 w.r1 = divisions (iterate w).r0 (iterate w).r1 + 1 := by
  rw [iterate_r0, iterate_r1, divisions_of_ne_zero w.r0 h1]

/-- Settles O27: left alone, the command completes one engine step after the divisions still to come, which are no more
than those of its operands. -/
theorem everyCommandCompletes : Obligations.EveryCommandCompletes := by
  unfold Obligations.EveryCommandCompletes
  intro s hinv hrun hin
  obtain ⟨hlow, hhigh, -⟩ := (Params.wf_iff s.params).mp hinv.1
  obtain ⟨-, -, -, -, hb, n, hreached⟩ := hinv.runFits hrun
  obtain ⟨w, ⟨k, hw⟩, h1, -, hwa, hwb, hruns⟩ := run_completes hin hrun ⟨n, hreached⟩
  have hbound := divisions_le_of_inRange (by omega) hb s.wk.a
  have hleft := hreached.add_divisions
  have hiters : (complete (s.withWk w)).iters.toNat = divisions s.wk.a s.wk.b := by
    rw [complete_iters, State.withWk_wk, hw.k_toNat_eq h1 hlow hhigh (hwb ▸ hb), hwa, hwb,
      hb.toNat_u32_divisions hlow hhigh]
  exact ⟨_, _, by omega, hruns, rfl, rfl, hiters.trans_le hbound, hiters⟩

/-- The quotient of a number and a smaller one of its sign is not negative. -/
theorem fdiv_nonneg_of_properRemainder {m r : Int} (h : ProperRemainder m r) : 0 ≤ fdiv m r := by
  rcases h with ⟨hpos, hlt⟩ | ⟨hlt, hneg⟩
  · exact Int.fdiv_nonneg (hpos.trans hlt).le hpos.le
  · have hrem : r < fmod m r ∧ fmod m r ≤ 0 := by have := fmod_range m hneg.ne; omega
    have hdef : fmod m r = m - r * fdiv m r := rfl
    by_contra hq
    nlinarith

theorem ProperRemainder.ne_zero {m r : Int} (h : ProperRemainder m r) : r ≠ 0 := by
  unfold ProperRemainder at h
  omega

theorem ProperRemainder.natAbs_lt {m r : Int} (h : ProperRemainder m r) : r.natAbs < m.natAbs := by
  unfold ProperRemainder at h
  omega

/-- Two remainders after each other are at most the number divided: the quotient is at least 1. -/
theorem natAbs_add_natAbs_fmod_le {m r : Int} (h : ProperRemainder m r) :
    r.natAbs + (fmod m r).natAbs ≤ m.natAbs := by
  have hmag := natAbs_eq_of_properRemainder h
  have hlt := h.natAbs_lt
  have hrem := natAbs_fmod_lt m h.ne_zero
  have hq : (fdiv m r).natAbs ≠ 0 := by
    intro hq
    rw [hq] at hmag
    omega
  have hmul : r.natAbs ≤ (fdiv m r).natAbs * r.natAbs := Nat.le_mul_of_pos_left _ (Nat.pos_of_ne_zero hq)
  omega

/-- Lamé's bound: a modulus with `n` divisions is at least the Fibonacci number `n + 1` in magnitude. -/
theorem fib_divisions_le (a : Int) {m : Int} (hm : m ≠ 0) : Nat.fib (divisions a m + 1) ≤ m.natAbs := by
  rw [divisions_of_ne_zero a hm]
  by_cases hr : fmod a m = 0
  · rw [hr, divisions_zero]
    exact Int.natAbs_pos.mpr hm
  · have hproper := properRemainder_fmod a hm hr
    rw [divisions_of_ne_zero m hr]
    by_cases hr' : fmod m (fmod a m) = 0
    · rw [hr', divisions_zero]
      have hlt := hproper.natAbs_lt
      have hpos := Int.natAbs_pos.mpr hr
      change 2 ≤ m.natAbs
      omega
    · have hsum := natAbs_add_natAbs_fmod_le hproper
      have hnext := fib_divisions_le m hr
      have hnext' := fib_divisions_le (fmod a m) hr'
      rw [divisions_of_ne_zero m hr] at hnext
      rw [Nat.fib_add_two]
      omega
termination_by m.natAbs
decreasing_by
  · exact natAbs_fmod_lt a hm
  · exact (natAbs_fmod_lt m hr).trans (natAbs_fmod_lt a hm)

/-- The residues modulo 27, one by one: one division fewer than the bound, which Lamé's bound does not decide. -/
theorem divisions_27_of_residue : ∀ r < 27, divisions 27 (r : Nat) ≤ 5 := by
  decide

/-- Settles O28: 27 is less than the ninth Fibonacci number, 34; modulo 27 the first remainder is a residue. -/
theorem fewIterationsAtModulus27 : Obligations.FewIterationsAtModulus27 := by
  unfold Obligations.FewIterationsAtModulus27
  refine ⟨fun a b _ _ hlow hhigh => ?_, fun a => ?_⟩
  · by_cases hb : b = 0
    · simp [hb]
    · by_contra hmany
      have hfib : Nat.fib 9 ≤ Nat.fib (divisions a b + 1) := Nat.fib_mono (by omega)
      have hlame := fib_divisions_le a hb
      have h34 : Nat.fib 9 = 34 := by decide
      omega
  · have hrange := fmod_range a (b := 27) (by decide)
    have hresidue := divisions_27_of_residue (fmod a 27).toNat (by omega)
    rw [Int.toNat_of_nonneg (by omega)] at hresidue
    rw [divisions_of_ne_zero a (by decide)]
    omega

/-- Where the iterations of a command stand after the first (40_engine.md R98): the remainders go down from the modulus
with its sign, the coefficients of `a` have opposite signs, and weighted by the remainders they add up to the
modulus. -/
structure Working.Descends (w : Working) : Prop where
  ne_zero : w.r0 ≠ 0
  remainder : w.r1 = 0 ∨ ProperRemainder w.r0 w.r1
  le_modulus : w.r0.natAbs ≤ w.b.natAbs
  signs : w.s0 * w.s1 ≤ 0
  weighted : w.r0.natAbs * w.s1.natAbs + w.r1.natAbs * w.s0.natAbs = w.b.natAbs

/-- A remainder by a non-zero number is 0, or one from which the recursion goes on. -/
theorem fmod_eq_zero_or_proper (a : Int) {m : Int} (hm : m ≠ 0) : fmod a m = 0 ∨ ProperRemainder m (fmod a m) :=
  or_iff_not_imp_left.mpr (properRemainder_fmod a hm)

/-- The first iteration divides by the modulus. -/
theorem iterate_startWorking_descends (c : Command) (a : Int) {b : Int} (hb : b ≠ 0) :
    (iterate (startWorking c a b)).Descends where
  ne_zero := hb
  remainder := by
    rw [iterate_r1]
    exact fmod_eq_zero_or_proper a hb
  le_modulus := le_rfl
  signs := by simp [startWorking]
  weighted := by simp [startWorking]

/-- Between coefficients of opposite signs, taking away a multiple adds the magnitudes. -/
theorem natAbs_sub_mul_of_opposite {x y q : Int} (hq : 0 ≤ q) (h : x * y ≤ 0) :
    (x - q * y).natAbs = x.natAbs + q.natAbs * y.natAbs := by
  rw [← Int.natAbs_mul]
  rcases mul_nonpos_iff.mp h with ⟨hx, hy⟩ | ⟨hx, hy⟩
  · have hqy : q * y ≤ 0 := mul_nonpos_of_nonneg_of_nonpos hq hy
    omega
  · have hqy : 0 ≤ q * y := mul_nonneg hq hy
    omega

/-- A later iteration keeps all of it, since its quotient is not negative. -/
theorem Working.Descends.iterate {w : Working} (h : w.Descends) (h1 : w.r1 ≠ 0) : (iterate w).Descends := by
  have hproper : ProperRemainder w.r0 w.r1 := h.remainder.resolve_left h1
  have hq := fdiv_nonneg_of_properRemainder hproper
  refine ⟨h1, ?_, ?_, ?_, ?_⟩
  · rw [iterate_r1]
    exact fmod_eq_zero_or_proper w.r0 h1
  · exact hproper.natAbs_lt.le.trans h.le_modulus
  · rw [iterate_s0, iterate_s1]
    have hsigns := h.signs
    nlinarith [mul_nonneg hq (mul_self_nonneg w.s1)]
  · rw [iterate_r0, iterate_r1, iterate_s0, iterate_s1, natAbs_sub_mul_of_opposite hq h.signs]
    calc w.r1.natAbs * (w.s0.natAbs + (fdiv w.r0 w.r1).natAbs * w.s1.natAbs) + (fmod w.r0 w.r1).natAbs * w.s1.natAbs
        = ((fdiv w.r0 w.r1).natAbs * w.r1.natAbs + (fmod w.r0 w.r1).natAbs) * w.s1.natAbs +
            w.r1.natAbs * w.s0.natAbs := by ring
      _ = w.b.natAbs := by rw [← natAbs_eq_of_properRemainder hproper, h.weighted]

/-- A command stands at its acceptance, or the remainders have begun to go down. -/
theorem Working.ReachedBy.start_or_descends {w : Working} {n : Nat} (h : w.ReachedBy n) :
    w = startWorking w.op w.a w.b ∨ w.Descends := by
  refine h.induct (P := fun _ w => w = startWorking w.op w.a w.b ∨ w.Descends) (fun c a b => .inl rfl)
    (fun _ w h1 hw => .inr ?_)
  rcases hw with hw | hw
  · rw [hw] at h1 ⊢
    exact iterate_startWorking_descends _ _ h1
  · exact hw.iterate h1

theorem Working.Descends.natAbs_r1_lt {w : Working} (h : w.Descends) : w.r1.natAbs < w.r0.natAbs := by
  rcases h.remainder with h1 | hproper
  · rw [h1]
    exact Int.natAbs_pos.mpr h.ne_zero
  · exact hproper.natAbs_lt

/-- The coefficient of `a` is at most the modulus: its share of the weighted sum. -/
theorem Working.Descends.natAbs_s1_le {w : Working} (h : w.Descends) : w.s1.natAbs ≤ w.b.natAbs :=
  calc w.s1.natAbs ≤ w.r0.natAbs * w.s1.natAbs := Nat.le_mul_of_pos_left _ (Int.natAbs_pos.mpr h.ne_zero)
    _ ≤ w.b.natAbs := Nat.le.intro h.weighted

/-- The coefficient of the modulus is at most `a`: the remainder as a combination of the operands bounds it by the
coefficient of `a`. -/
theorem Working.Descends.natAbs_t1_le {w : Working} (h : w.Descends) (hlinear : w.r1 = w.a * w.s1 + w.b * w.t1) :
    w.t1.natAbs ≤ w.a.natAbs := by
  have hr1 : w.r1.natAbs < w.b.natAbs := h.natAbs_r1_lt.trans_le h.le_modulus
  have hs1 : w.a.natAbs * w.s1.natAbs ≤ w.a.natAbs * w.b.natAbs := Nat.mul_le_mul_left _ h.natAbs_s1_le
  have ht1 : w.b.natAbs * w.t1.natAbs ≤ w.r1.natAbs + w.a.natAbs * w.s1.natAbs := by
    rw [← Int.natAbs_mul, ← Int.natAbs_mul, ← sub_eq_of_eq_add' hlinear]
    exact Int.natAbs_sub_le _ _
  refine Nat.lt_succ_iff.mp (Nat.lt_of_mul_lt_mul_left (a := w.b.natAbs) ?_)
  linarith

/-- A command stands at its acceptance, or it comes from an iteration. -/
theorem Working.ReachedBy.start_or_iterate {w : Working} {n : Nat} (h : w.ReachedBy n) :
    w = startWorking w.op w.a w.b ∨ ∃ m w', w'.ReachedBy m ∧ w'.a = w.a ∧ w'.b = w.b ∧ w = Machine.iterate w' := by
  obtain ⟨hw, hdivisor⟩ := h
  cases n with
  | zero => exact .inl hw
  | succ m =>
    refine .inr ⟨m, iterateN m w.atStart, ⟨?_, fun j hj => ?_⟩, iterateN_a m _, iterateN_b m _, hw⟩
    · simp only [atStart, iterateN_op, iterateN_a, iterateN_b, startWorking]
    · simp only [atStart, iterateN_op, iterateN_a, iterateN_b, startWorking]
      exact hdivisor j (Nat.lt_succ_of_lt hj)

/-- The quotient is at most the dividend in magnitude. -/
theorem natAbs_fdiv_le (a : Int) {b : Int} (hb : b ≠ 0) : (fdiv a b).natAbs ≤ a.natAbs := by
  have hdef : b * fdiv a b = a - fmod a b := by rw [fmod]; ring
  have hrem := natAbs_fmod_lt a hb
  have hmul : b.natAbs * (fdiv a b).natAbs ≤ a.natAbs + (fmod a b).natAbs := by
    rw [← Int.natAbs_mul, hdef]
    exact Int.natAbs_sub_le _ _
  have hself : a.natAbs ≤ b.natAbs * a.natAbs := Nat.le_mul_of_pos_left _ (Int.natAbs_pos.mpr hb)
  by_contra hlt
  have hmore := Nat.mul_le_mul_left b.natAbs (Nat.lt_of_not_le hlt)
  rw [Nat.mul_succ] at hmore
  omega

section Reached

variable {W n : Nat} {w : Working} (ha : InRange W w.a) (hb : InRange W w.b) (h : w.ReachedBy n)

include ha hb h

/-- Every remainder that a command on W-bit operands reaches is a W-bit value. -/
theorem Working.ReachedBy.remainders_inRange : InRange W w.r0 ∧ InRange W w.r1 := by
  revert ha hb
  refine h.induct (P := fun _ w => InRange W w.a → InRange W w.b → InRange W w.r0 ∧ InRange W w.r1)
    (fun _ _ _ ha hb => ⟨ha, hb⟩) (fun _ w h1 hw ha hb => ?_)
  obtain ⟨-, hr1⟩ := hw ha hb
  rw [iterate_r0, iterate_r1]
  exact ⟨hr1, hr1.fmod_of_ne_zero h1 _⟩

/-- The coefficients of the next remainder (40_engine.md R98). -/
theorem Working.ReachedBy.natAbs_next_coefficients_le :
    w.s1.natAbs ≤ 2 ^ (W - 1) ∧ w.t1.natAbs ≤ 2 ^ (W - 1) := by
  rcases h.start_or_descends with hw | hw
  · rw [hw]
    exact ⟨Nat.zero_le _, Nat.one_le_two_pow⟩
  · obtain ⟨-, hlinear⟩ := h.linear_combinations
    exact ⟨hw.natAbs_s1_le.trans hb.natAbs_le, (hw.natAbs_t1_le hlinear).trans ha.natAbs_le⟩

/-- The coefficients of the current remainder are those of the one before (40_engine.md R98). -/
theorem Working.ReachedBy.natAbs_coefficients_le : w.s0.natAbs ≤ 2 ^ (W - 1) ∧ w.t0.natAbs ≤ 2 ^ (W - 1) := by
  rcases h.start_or_iterate with hw | ⟨m, w', hw', hwa, hwb, rfl⟩
  · rw [hw]
    exact ⟨Nat.one_le_two_pow, Nat.zero_le _⟩
  · exact hw'.natAbs_next_coefficients_le (hwa ▸ ha) (hwb ▸ hb)

end Reached

/-- What is subtracted in an iteration is the difference of two values that fit. -/
theorem abs_le_of_sub_eq {W : Nat} {x y z : Int} (hW : 0 < W) (hx : x.natAbs ≤ 2 ^ (W - 1))
    (hz : z.natAbs ≤ 2 ^ (W - 1)) (h : z = x - y) : |y| ≤ 2 ^ W := by
  have hdouble : 2 ^ W = 2 ^ (W - 1) * 2 := by rw [← pow_succ, Nat.sub_add_cancel hW]
  have hy : y.natAbs ≤ 2 ^ W := by omega
  rw [Int.abs_eq_natAbs]
  exact_mod_cast hy

theorem abs_le_two_pow_of_natAbs_le {k : Nat} {x : Int} (h : x.natAbs ≤ 2 ^ k) : |x| ≤ 2 ^ k := by
  rw [Int.abs_eq_natAbs]
  exact_mod_cast h

/-- The quotient and the products of an iteration (40_engine.md R98). -/
theorem Working.ReachedBy.abs_products_le {W n : Nat} {w : Working} (hW : 0 < W) (ha : InRange W w.a)
    (hb : InRange W w.b) (h : w.ReachedBy n) (h1 : w.r1 ≠ 0) :
    |fdiv w.r0 w.r1| ≤ 2 ^ (W - 1) ∧ |fdiv w.r0 w.r1 * w.r1| ≤ 2 ^ W ∧ |fdiv w.r0 w.r1 * w.s1| ≤ 2 ^ W ∧
      |fdiv w.r0 w.r1 * w.t1| ≤ 2 ^ W := by
  have hnext := h.iterate h1
  obtain ⟨hr0, -⟩ := h.remainders_inRange ha hb
  obtain ⟨-, hr1'⟩ := Working.ReachedBy.remainders_inRange (w := Machine.iterate w) ha hb hnext
  obtain ⟨hs0, ht0⟩ := h.natAbs_coefficients_le ha hb
  obtain ⟨hs1', ht1'⟩ := Working.ReachedBy.natAbs_next_coefficients_le (w := Machine.iterate w) ha hb hnext
  exact ⟨abs_le_two_pow_of_natAbs_le ((natAbs_fdiv_le _ h1).trans hr0.natAbs_le),
    abs_le_of_sub_eq hW hr0.natAbs_le hr1'.natAbs_le rfl, abs_le_of_sub_eq hW hs0 hs1' rfl,
    abs_le_of_sub_eq hW ht0 ht1' rfl⟩

/-- Settles O29: the coefficients are bounded by the operands along `Descends`, the quotient and the products by two
values that fit, and the results are the triple of the recursion. -/
theorem workingRegistersFit : Obligations.WorkingRegistersFit := by
  unfold Obligations.WorkingRegistersFit
  intro p w n hwf ha hb h
  obtain ⟨hlow, hhigh, -⟩ := (Params.wf_iff p).mp hwf
  obtain ⟨hr0, hr1⟩ := h.remainders_inRange ha hb
  obtain ⟨hs0, ht0⟩ := h.natAbs_coefficients_le ha hb
  obtain ⟨hs1, ht1⟩ := h.natAbs_next_coefficients_le ha hb
  have hn : n ≤ 2 * p.W - 2 := by
    have hbound := divisions_le_of_inRange (W := p.W) (by omega) hb w.a
    have hleft := h.add_divisions
    omega
  have hk : w.k.toNat = n := by
    rw [h.k_eq, BitVec.toNat_ofNat]
    omega
  have hresults (h1 : w.r1 = 0) : |w.s0| ≤ 2 ^ (p.W - 2) ∧ |w.t0| ≤ 2 ^ (p.W - 2) := by
    obtain ⟨hx, hy⟩ := ha.abs_coefficients_le (by omega) hb
    rw [← h.triple_eq h1] at hx hy
    exact ⟨hx, hy⟩
  exact ⟨abs_le_two_pow_of_natAbs_le hr0.natAbs_le, abs_le_two_pow_of_natAbs_le hr1.natAbs_le,
    abs_le_two_pow_of_natAbs_le hs0, abs_le_two_pow_of_natAbs_le hs1, abs_le_two_pow_of_natAbs_le ht0,
    abs_le_two_pow_of_natAbs_le ht1, h.abs_products_le (by omega) ha hb, fun h1 => ⟨hr0, hresults h1⟩, hn, hk⟩

end Sys2Proof.Machine
end

section
/-! The invariant of a legal state (10_state.md R25 to R32, 40_engine.md R97, R98, R100): it holds at reset, and every
step keeps it. -/

namespace Sys2Proof.Machine

/-- What a word made from an integer denotes: the integer modulo `2^W`, as a signed value (00_scope.md R6). -/
theorem sint_ofInt {W : Nat} (hW : W ≤ 32) (i : Int) : sint W (BitVec.ofInt 32 i) = Int.bmod i (2 ^ W) := by
  have hdvd : ((2 ^ W : Nat) : Int) ∣ ((2 ^ 32 : Nat) : Int) := Int.natCast_dvd_natCast.mpr (Nat.pow_dvd_pow 2 hW)
  rw [sint, BitVec.toNat_ofInt, Int.toNat_of_nonneg (Int.emod_nonneg _ (by decide)), ← Int.emod_bmod,
    Int.emod_emod_of_dvd _ hdvd, Int.emod_bmod]

/-- A W-bit value comes back from its word. -/
theorem InRange.sint_ofInt {W : Nat} {i : Int} (h : InRange W i) (hpos : 0 < W) (hhigh : W ≤ 32) :
    sint W (BitVec.ofInt 32 i) = i := by
  rw [Machine.sint_ofInt hhigh, h.bmod_eq hpos le_rfl]

/-- A signed result is the sign extension of its low W bits (30_encoding.md R73). -/
theorem signedWord_signedResult {W : Nat} (hpos : 0 < W) (hhigh : W ≤ 32) (i : Int) :
    SignedWord W (signedResult W i) := by
  have hrange : InRange W (sint W (bits W i)) := sint_inRange hpos _
  rw [SignedWord, signedResult, sext32, sext32, hrange.sint_ofInt hpos hhigh]

theorem State.FlagsClear.flagsFit {s : State} (h : s.FlagsClear) : s.FlagsFit := by
  obtain ⟨hdone, hnoinv, herr⟩ := h
  simp [State.FlagsFit, hnoinv, herr, errNone]

/-- The invariant in the reset state of a block with legal parameters (70_reset_and_hazards.md R180). -/
theorem inv_resetWith {p : Params} (hwf : p.wf = true) : (State.resetWith p).Inv := by
  have hclear : (State.resetWith p).FlagsClear := ⟨rfl, rfl, rfl⟩
  have hpow : 0 < 2 ^ p.W := by positivity
  exact ⟨hwf, hpow, hpow, hclear.flagsFit, Nat.zero_le _, sext32_zero p.W, sext32_zero p.W, Nat.zero_le _,
    fun hrun => nomatch hrun⟩

/-- Settles O50: the default parameters are legal. -/
theorem invariantAtReset : Obligations.InvariantAtReset := by
  unfold Obligations.InvariantAtReset
  exact ⟨inv_resetWith (by decide), fun p hwf => inv_resetWith hwf⟩

/-- The results of a completion, as the invariant has them. -/
structure Results.Fit (W : Nat) (r : Results) : Prop where
  err_le : r.err.toNat ≤ 2
  err_of_noinv : r.noinv = true → r.err = errNone
  resG : r.resG.Fits W
  resX : SignedWord W r.resX
  resY : SignedWord W r.resY
  iters : r.iters.toNat ≤ 2 * W - 2

/-- NOINV and ERR of an inverse: never both (10_state.md R25). -/
theorem inverseResult_flags (g x m : Int) :
    (inverseResult g x m).2.2.toNat ≤ 2 ∧
      ((inverseResult g x m).2.1 = true → (inverseResult g x m).2.2 = errNone) := by
  unfold inverseResult
  split_ifs
  · exact ⟨Nat.zero_le 2, fun _ => rfl⟩
  · exact ⟨le_rfl, fun h => nomatch h⟩
  · exact ⟨Nat.zero_le 2, fun h => nomatch h⟩

theorem commandResults_iters (W : Nat) (c : Command) (a b : Int) :
    (commandResults W c a b).iters = u32 (divisions a b) := by
  cases c <;> rfl

/-- What a command on W-bit operands writes (10_state.md R25, R27, R29; 40_engine.md R97, R98). -/
theorem commandResults_fit {W : Nat} {a b : Int} (hlow : 4 ≤ W) (hhigh : W ≤ 32) (ha : InRange W a)
    (hb : InRange W b) (c : Command) : (commandResults W c a b).Fit W := by
  have hsigned (i : Int) : SignedWord W (signedResult W i) := signedWord_signedResult (by omega) hhigh i
  have hiters : (commandResults W c a b).iters.toNat ≤ 2 * W - 2 := by
    rw [commandResults_iters, hb.toNat_u32_divisions hlow hhigh]
    exact divisions_le_of_inRange (by omega) hb a
  cases c with
  | gcd =>
    have hword : (u32 (gcdN a b)).toNat ≤ 2 ^ (W - 1) := by
      have hvalue := commandResults_gcd_value hhigh ha hb
      rw [commandResults_gcd_resG, GResult.value, Nat.cast_inj] at hvalue
      exact hvalue.trans_le (gcdN_le_of_inRange ha hb)
    exact ⟨Nat.zero_le _, fun h => (nomatch h), hword, sext32_zero W, sext32_zero W, hiters⟩
  | egcd => exact ⟨Nat.zero_le _, fun h => (nomatch h), hsigned _, hsigned _, hsigned _, hiters⟩
  | modinv =>
    obtain ⟨herr, hnoinv⟩ := inverseResult_flags (extendedEuclid a b).1 (extendedEuclid a b).2.1 b
    exact ⟨herr, hnoinv, hsigned _, hsigned _, hsigned _, hiters⟩

/-- A completion with results that fit keeps the invariant. -/
theorem State.Inv.completedWith {s : State} (h : s.Inv) {r : Results} (hr : r.Fit s.params.W) :
    (s.completedWith r).Inv := by
  obtain ⟨hwf, hopa, hopb, -, -, -, -, -, -⟩ := h
  exact ⟨hwf, hopa, hopb, ⟨hr.err_le, fun hn => ⟨hr.err_of_noinv hn, rfl⟩, fun _ => rfl⟩, hr.resG, hr.resX, hr.resY,
    hr.iters, fun hrun => nomatch hrun⟩

/-- An iteration of a running command keeps the invariant. -/
theorem State.Inv.iterate {s : State} (h : s.Inv) (hrun : s.fsm = .run) (h1 : s.wk.r1 ≠ 0) :
    (s.withWk (iterate s.wk)).Inv := by
  obtain ⟨hdone, hnoinv, herr, ha, hb, n, hreached⟩ := h.runFits hrun
  obtain ⟨hwf, hopa, hopb, hflags, hG, hX, hY, hiters, -⟩ := h
  exact ⟨hwf, hopa, hopb, hflags, hG, hX, hY, hiters,
    fun _ => ⟨hdone, hnoinv, herr, ha, hb, n + 1, hreached.iterate h1⟩⟩

/-- The engine's step keeps the invariant (40_engine.md R94 to R96). -/
theorem State.Inv.engineStep {s : State} (h : s.Inv) : (engineStep s).Inv := by
  rcases engineStep_cases s with ⟨-, he⟩ | ⟨hrun, h1, he⟩ | ⟨hrun, h1, he⟩ <;> rw [he]
  · exact h
  · exact h.iterate hrun h1
  · have hfits := h.runFits hrun
    have hresults := complete_results_of_runFits h.1 hfits h1
    obtain ⟨-, -, -, ha, hb, -⟩ := hfits
    obtain ⟨hlow, hhigh, -⟩ := (Params.wf_iff s.params).mp h.1
    rw [complete_eq_completedWith, hresults]
    exact h.completedWith (commandResults_fit hlow hhigh ha hb _)

theorem engineStep_params (s : State) : (engineStep s).params = s.params := by
  rcases engineStep_cases s with ⟨-, h⟩ | ⟨-, -, h⟩ | ⟨-, -, h⟩ <;> rw [h]
  · rfl
  · exact complete_params s

/-- A write of OP and of the flags keeps the invariant, if the flags go together, and in RUN are clear. -/
theorem State.Inv.withFlags {s : State} (h : s.Inv) {op : BitVec 3} {done noinv ovr : Bool} {err : BitVec 4}
    {resp : Response}
    (hflags : { s with op := op, done := done, noinv := noinv, ovr := ovr, err := err, resp := resp }.FlagsFit)
    (hclear : s.fsm = .run →
      { s with op := op, done := done, noinv := noinv, ovr := ovr, err := err, resp := resp }.FlagsClear) :
    { s with op := op, done := done, noinv := noinv, ovr := ovr, err := err, resp := resp }.Inv := by
  obtain ⟨hwf, hopa, hopb, -, hG, hX, hY, hiters, hfits⟩ := h
  refine ⟨hwf, hopa, hopb, hflags, hG, hX, hY, hiters, fun hrun => ?_⟩
  obtain ⟨hdone, hnoinv, herr⟩ := hclear hrun
  obtain ⟨-, -, -, ha, hb, hreached⟩ := hfits hrun
  exact ⟨hdone, hnoinv, herr, ha, hb, hreached⟩

/-- CLR, after the store of OP, keeps the invariant. -/
theorem State.Inv.applyClr {s : State} (h : s.Inv) (op : BitVec 3) (clr : Bool) :
    (applyClr clr (s.withOp op)).Inv := by
  cases clr with
  | false => exact h
  | true =>
    have hclear : (Machine.applyClr true (s.withOp op)).FlagsClear := ⟨rfl, rfl, rfl⟩
    exact h.withFlags (ovr := false) (resp := s.resp) hclear.flagsFit fun _ => hclear

/-- An accepted START keeps the invariant: the latched operands are W-bit values (40_engine.md R91). -/
theorem State.Inv.startedWith {s : State} (h : s.Inv) (op : BitVec 3) (clr : Bool) (c : Command) :
    (s.startedWith op clr c).Inv := by
  obtain ⟨hwf, hopa, hopb, -, hG, hX, hY, hiters, -⟩ := h
  have hclear : (s.startedWith op clr c).FlagsClear := ⟨rfl, rfl, rfl⟩
  exact ⟨hwf, hopa, hopb, hclear.flagsFit, hG, hX, hY, hiters,
    fun _ => ⟨rfl, rfl, rfl, sint_inRange_of_wf hwf _, sint_inRange_of_wf hwf _, 0, startWorking_reachedBy _ _ _⟩⟩

/-- A write of OPA or OPB stores W bits (20_memory.md R59). -/
theorem lowBits_toNat_lt {W : Nat} (hW : W ≤ 32) (d : Word) : (lowBits W d).toNat < 2 ^ W := by
  rw [lowBits_toNat hW]
  exact Nat.mod_lt _ (by positivity)

/-- Every instruction keeps the invariant. -/
theorem State.Inv.exec {i : Instr} {s t : State} (h : s.Inv) (hexec : exec i s = .next t) : t.Inv := by
  rcases exec_cases hexec with ⟨a, b, r, rfl, ha, hb⟩ | ⟨op, clr, -, rfl⟩ | ⟨op, clr, -, hrun, rfl⟩ |
    ⟨op, clr, c, -, -, -, rfl⟩ | ⟨op, clr, -, hidle, -, rfl⟩
  · obtain ⟨hwf, hopa, hopb, hrest⟩ := h
    obtain ⟨-, hhigh, -⟩ := (Params.wf_iff s.params).mp hwf
    refine ⟨hwf, ?_, ?_, hrest⟩
    · rcases ha with rfl | ⟨d, rfl⟩
      · exact hopa
      · exact lowBits_toNat_lt hhigh d
    · rcases hb with rfl | ⟨d, rfl⟩
      · exact hopb
      · exact lowBits_toNat_lt hhigh d
  · exact h.applyClr op clr
  · exact h.applyClr op clr
  · exact h.startedWith op clr c
  · refine (h.applyClr op clr).withFlags (op := op)
      (ovr := (Machine.applyClr clr (s.withOp op)).ovr) (resp := .writeDone)
      ⟨(by decide : errIllop.toNat ≤ 2), fun hn => (nomatch hn), fun _ => rfl⟩ fun hrun => ?_
    rw [applyClr_withOp_fsm, hidle] at hrun
    cases hrun

/-- Settles O51: the engine's step, a reset, an instruction and a bus error keep the invariant. -/
theorem invariantIsKept : Obligations.InvariantIsKept := by
  unfold Obligations.InvariantIsKept
  intro s t hinv hstep
  rcases step_cases hstep with ⟨-, rfl⟩ | ⟨req, rest, -, rfl⟩ | ⟨i, l, -, hexec⟩ | ⟨a, rest, off, -, -, -, rfl⟩
  · exact ⟨State.Inv.engineStep (s := s.withInputs s.inputs.tail) hinv, engineStep_params _⟩
  · exact ⟨inv_resetWith hinv.1, rfl⟩
  · exact ⟨State.Inv.exec (s := s.withInputs l) hinv hexec, (exec_params_inputs hexec).1⟩
  · exact ⟨hinv, rfl⟩

/-- The state after a poll of `wait`, with what remains of the script (30_encoding.md R78). -/
def State.polled (s : State) (rest : List Event) : State :=
  (s.withInputs rest).withResp (.readData (statusWord s))

/-- A step of the block that answers a next state is the first of a run. -/
theorem run_succ {s s' : State} (h : step s = .next s') (n : Nat) :
    Host.Core.run core (n + 1) s = Host.Core.run core n s' :=
  run_succ_of_step (M := core) h n

/-- In IDLE a poll ends the wait. -/
theorem step_wait_of_idle {s : State} {rest : List Event} (hidle : s.fsm = .idle) (hin : s.inputs = .wait :: rest) :
    step s = .next (s.polled rest) := by
  rw [step_wait hin, hidle]
  rfl

/-- In RUN a poll is followed by an engine step and the next poll (log entry 12). -/
theorem step_wait_of_run {s : State} {rest : List Event} (hrun : s.fsm = .run) (hin : s.inputs = .wait :: rest) :
    step s = .next (s.polled (.engine :: .wait :: rest)) := by
  rw [step_wait hin, hrun]
  rfl

theorem run_wait_of_run {s : State} {rest : List Event} (hrun : s.fsm = .run) (hin : s.inputs = .wait :: rest)
    (n : Nat) : Host.Core.run core (n + 2) s = Host.Core.run core n (engineStep (s.polled (.wait :: rest))) := by
  have hengine : step (s.polled (.engine :: .wait :: rest)) = .next (engineStep (s.polled (.wait :: rest))) :=
    step_of_engineMoves (.inr ⟨.wait :: rest, rfl⟩)
  rw [run_succ (step_wait_of_run hrun hin), run_succ hengine]

/-- What is true where a wait has ended with the given results. -/
def State.WaitEndedWith (t : State) (rest : List Event) (r : Results) : Prop :=
  t.inputs = rest ∧ t.fsm = .idle ∧ t.results = r ∧ ∃ w, t.resp = .readData w ∧ w.getLsbD 0 = false

/-- A wait that finds the block in IDLE ends at once, with the results that are there. -/
theorem run_wait_of_idle {s : State} {rest : List Event} (hidle : s.fsm = .idle) (hin : s.inputs = .wait :: rest) :
    ∃ t, Host.Core.run core 1 s = .next t ∧ t.WaitEndedWith rest s.results := by
  refine ⟨_, run_succ (step_wait_of_idle hidle hin) 0, rfl, hidle, rfl, _, rfl, ?_⟩
  rw [statusWord_getLsbD_zero, State.busy, hidle]
  rfl

/-- A wait for a running command ends after two steps for each engine step, and the last poll. -/
theorem run_wait_ends {s : State} {rest : List Event} (hinv : s.Inv) (hrun : s.fsm = .run)
    (hin : s.inputs = .wait :: rest) :
    ∃ t, Host.Core.run core (2 * divisions s.wk.r0 s.wk.r1 + 3) s = .next t ∧
      t.WaitEndedWith rest (commandResults s.params.W s.wk.op s.wk.a s.wk.b) := by
  induction hd : divisions s.wk.r0 s.wk.r1 generalizing s with
  | zero =>
    have h1 : s.wk.r1 = 0 := (divisions_eq_zero_iff s.wk.r0 s.wk.r1).mp hd
    have hresults := complete_results_of_runFits (s := s.polled (.wait :: rest)) hinv.1 (hinv.runFits hrun) h1
    obtain ⟨t, hruns, hended⟩ := run_wait_of_idle (s := complete (s.polled (.wait :: rest))) rfl (complete_inputs _)
    rw [hresults] at hended
    refine ⟨t, ?_, hended⟩
    rw [run_wait_of_run hrun hin 1, engineStep_complete (s := s.polled (.wait :: rest)) hrun h1]
    exact hruns
  | succ d ih =>
    have h1 : s.wk.r1 ≠ 0 := mt (divisions_eq_zero_iff s.wk.r0 s.wk.r1).mpr (by omega)
    rw [divisions_iterate h1, Nat.add_right_cancel_iff] at hd
    have hinv' := State.Inv.iterate (s := s.polled (.wait :: rest)) hinv hrun h1
    rw [show 2 * (d + 1) + 3 = 2 * d + 3 + 2 by ring, run_wait_of_run hrun hin,
      engineStep_iterate (s := s.polled (.wait :: rest)) hrun h1]
    exact ih hinv' hrun rfl hd

/-- Settles O49: the wait takes two steps for each engine step and one for the last poll, and there are no more
divisions to come than those of the operands. -/
theorem waitEndsWithTheResults : Obligations.WaitEndsWithTheResults := by
  unfold Obligations.WaitEndsWithTheResults
  intro s rest hinv hin
  obtain ⟨hlow, -, -⟩ := (Params.wf_iff s.params).mp hinv.1
  cases hfsm : s.fsm with
  | idle =>
    obtain ⟨t, hruns, hinputs, hidle, -, w, hresp, hbusy⟩ := run_wait_of_idle hfsm hin
    exact ⟨1, t, w, by omega, hruns, hinputs, hidle, hresp, hbusy, fun hrun => nomatch hrun⟩
  | run =>
    obtain ⟨t, hruns, hinputs, hidle, hresults, w, hresp, hbusy⟩ := run_wait_ends hinv hfsm hin
    obtain ⟨-, -, -, -, hb, n, hreached⟩ := hinv.runFits hfsm
    have hbound := divisions_le_of_inRange (W := s.params.W) (by omega) hb s.wk.a
    have hleft := hreached.add_divisions
    exact ⟨_, t, w, by omega, hruns, hinputs, hidle, hresp, hbusy, fun _ => hresults⟩

end Sys2Proof.Machine
end

section
/-! MODINV from START to completion (43_modinv.md R140 to R142), and MODZERO (R143). -/

namespace Sys2Proof.Machine

theorem inverseResult_one_zero (x : Int) :
    inverseResult 1 x 0 = (Config.modZeroInverse x 0, false, errModzero) := rfl

/-- ERR of an inverse is MODZERO where `g = 1` and the modulus is 0, and else 0 (60_exceptions.md R161, R166). -/
theorem inverseResult_err (g x m : Int) :
    (inverseResult g x m).2.2 = if g = 1 ∧ m = 0 then errModzero else errNone := by
  by_cases hg : g = 1
  · by_cases hm : m = 0
    · rw [if_pos ⟨hg, hm⟩, hg, hm, inverseResult_one_zero]
    · rw [if_neg fun h => hm h.2, hg, inverseResult_one_of_ne_zero x hm]
  · rw [if_neg fun h => hg h.1, inverseResult_of_ne_one hg]

theorem commandResults_modinv_err (W : Nat) (a m : Int) : (commandResults W .modinv a m).err =
    if (extendedEuclid a m).1 = 1 ∧ m = 0 then errModzero else errNone :=
  inverseResult_err _ _ m

/-- The error test of 43_modinv.md R143. -/
theorem commandResults_modinv_err_iff (W : Nat) (a m : Int) :
    (commandResults W .modinv a m).err = errModzero ↔ (extendedEuclid a m).1 = 1 ∧ m = 0 := by
  rw [commandResults_modinv_err]
  split_ifs with h
  · exact iff_of_true rfl h
  · exact iff_of_false (by decide) h

theorem commandResults_modinv_err_eq_none (W : Nat) (a m : Int) (h : (commandResults W .modinv a m).err ≠ errModzero) :
    (commandResults W .modinv a m).err = errNone := by
  rw [Ne, commandResults_modinv_err_iff] at h
  rw [commandResults_modinv_err, if_neg h]

/-- What MODINV of W-bit operands writes (43_modinv.md R140). -/
theorem commandResults_modinv {W : Nat} {a m g x y : Int} (hlow : 4 ≤ W) (hhigh : W ≤ 32) (ha : InRange W a)
    (hm : InRange W m) (htriple : extendedEuclid a m = (g, x, y)) :
    commandResults W .modinv a m =
      { resG := { word := BitVec.ofInt 32 g, reading := .signed }
        resX := BitVec.ofInt 32 x, resY := BitVec.ofInt 32 y, resInv := (commandResults W .modinv a m).resInv
        iters := u32 (divisions a m), noinv := (commandResults W .modinv a m).noinv
        err := (commandResults W .modinv a m).err } := by
  obtain ⟨hg, hx, hy⟩ := InRange.signedResult_triple hlow hhigh ha hm htriple
  simp only [commandResults, htriple, hg, hx, hy]

/-- Where `g = 1`, `m` divides `a` times the normalized coefficient, less 1: by Bezout's identity (43_modinv.md
R142). -/
theorem dvd_mul_normalize_sub_one {a m : Int} (hg : (extendedEuclid a m).1 = 1) :
    m ∣ a * normalize (extendedEuclid a m).2.1 m - 1 := by
  have hbezout := extendedEuclid_bezout a m
  refine ⟨-(extendedEuclid a m).2.2 - a * fdiv (extendedEuclid a m).2.1 m, ?_⟩
  rw [normalize_eq_fmod, fmod]
  linear_combination hbezout + hg

/-- A gcd of 1 at a non-zero modulus says that the modulus is positive (42_egcd.md R133). -/
theorem modulus_pos_of_fst_eq_one {a m : Int} (hg : (extendedEuclid a m).1 = 1) (hm : m ≠ 0) : 0 < m := by
  have hsign := (extendedEuclid_fst_sign a m).2
  omega

/-- RES_INV of W-bit operands, where `g = 1` and the modulus is not 0: an inverse, in `[0, m)` (43_modinv.md R142). -/
theorem InRange.resInv_spec {W : Nat} {a m : Int} (hhigh : W ≤ 32) (hm : InRange W m)
    (hg : (extendedEuclid a m).1 = 1) (hm0 : m ≠ 0) :
    1 ≤ m ∧ ((commandResults W .modinv a m).resInv.toNat : Int) < m ∧
      m ∣ a * (commandResults W .modinv a m).resInv.toNat - 1 := by
  have hpos := modulus_pos_of_fst_eq_one hg hm0
  obtain ⟨-, hlt⟩ := normalize_range (extendedEuclid a m).2.1 hpos
  rw [hm.toNat_resInv hhigh hpos hg]
  exact ⟨hpos, hlt, dvd_mul_normalize_sub_one hg⟩

/-- Settles O34: the command completes with the results of MODINV, whose flags test the recursion's gcd and the modulus,
and whose inverse is the normalized coefficient. -/
theorem modinvCommandComputesTheInverse : Obligations.ModinvCommandComputesTheInverse := by
  unfold Obligations.ModinvCommandComputesTheInverse
  refine ⟨fun s clr hinv hidle hin => ?_, by decide, by decide⟩
  intro a m
  have hwf := hinv.1
  obtain ⟨hlow, hhigh, -⟩ := (Params.wf_iff s.params).mp hwf
  have ha : InRange s.params.W a := sint_inRange_of_wf hwf s.opa
  have hm : InRange s.params.W m := sint_inRange_of_wf hwf s.opb
  obtain ⟨t, w, hexec, hruns⟩ := command_completes (i := .modinv clr) (c := .modinv) rfl rfl hwf hidle hin
  have hnoinv := commandResults_modinv_noinv_iff s.params.W a m
  have herr := commandResults_modinv_err_iff s.params.W a m
  have hnone := commandResults_modinv_err_eq_none s.params.W a m
  have habsent (hg : (extendedEuclid a m).1 ≠ 1) := commandResults_modinv_resInv_of_ne_one hg s.params.W
  have hinverse (hg : (extendedEuclid a m).1 = 1) (hm0 : m ≠ 0) := hm.resInv_spec hhigh hg hm0
  rcases htriple : extendedEuclid a m with ⟨g, x, y⟩
  rw [htriple] at hnoinv herr habsent hinverse
  refine ⟨t, _, hexec, divisions_le_of_inRange (by omega) hm _, hruns, ?_, hnoinv, herr, hnone, habsent, hinverse⟩
  change State.completedWith _ (commandResults s.params.W .modinv a m) = _
  rw [commandResults_modinv hlow hhigh ha hm htriple]
  rfl

/-- Settles O42: modulo 0 the recursion's gcd is `a`, and its triple is (a, 1, 0) without a division. -/
theorem modzeroIsOneModuloZero : Obligations.ModzeroIsOneModuloZero := by
  unfold Obligations.ModzeroIsOneModuloZero
  intro W a m hlow hhigh
  have herr : (commandResults W .modinv a m).err = errModzero ↔ a = 1 ∧ m = 0 := by
    rw [commandResults_modinv_err_iff]
    constructor <;> rintro ⟨ha, rfl⟩ <;> exact ⟨ha, rfl⟩
  refine ⟨herr, fun h => ?_⟩
  obtain ⟨rfl, rfl⟩ := herr.mp h
  have hone : InRange W 1 := by
    have hpow : (2 : Int) ^ 1 ≤ 2 ^ (W - 1) := pow_le_pow_right₀ (by norm_num) (by omega)
    exact ⟨by omega, by omega⟩
  have hzero : InRange W 0 := ⟨by simp, by positivity⟩
  rw [commandResults_modinv hlow hhigh hone hzero (extendedEuclid_zero 1)]
  exact ⟨(commandResults_modinv_noinv_eq_false_iff W 1 0).mpr rfl, rfl, rfl, rfl, rfl⟩

end Sys2Proof.Machine
end

section
/-! The ports in a clock cycle (20_memory.md R51, 70_reset_and_hazards.md R180), a clock cycle as a run of events
(R189), and the clock cycles of a command (R188). -/

namespace Sys2Proof

/-- A legal read is of the register at its offset (20_memory.md R58). -/
theorem readOf_of_decodeFields {size : BitVec 2} {off : Offset} {d : Word} {i : Instr}
    (h : decodeFields false size off d = .instr i) : ∃ r : Reg, r.offset = off ∧ i = readOf r := by
  have hlegal := legal_of_decodeFields h
  obtain ⟨-, halign, hmap, -⟩ := (legal_iff _ _ _).mp hlegal
  obtain ⟨r, hr⟩ := regAt_isSome halign hmap
  obtain rfl : readOf r = i := by simpa [decodeFields, hlegal, hr] using h
  exact ⟨r, (offset_of_regAt hr).symm, rfl⟩

theorem regAt_offset (r : Reg) : regAt r.offset = some r := by
  cases r <;> rfl

/-- No two registers share an offset (20_memory.md R53). -/
theorem Reg.offset_injective {r r' : Reg} (h : r.offset = r'.offset) : r = r' := by
  rw [← Option.some_inj, ← regAt_offset, h, regAt_offset]

theorem startOf_starts (op : BitVec 3) (clr : Bool) : (startOf op clr).Starts op clr := by
  unfold Instr.Starts
  revert op clr
  decide

/-- A command word decodes to a CTRL write (30_encoding.md R71). -/
theorem decodeCommand_ctrlFields (d : Word) : ∃ f, (decodeCommand d).ctrlFields = some f := by
  unfold decodeCommand
  split_ifs
  · exact ⟨_, startOf_starts _ _⟩
  · exact ⟨_, rfl⟩

end Sys2Proof

namespace Sys2Proof.Machine

/-- A legal write is answered without read data (20_memory.md R51). -/
theorem exec_resp_of_decoded_write {size : BitVec 2} {off : Offset} {d : Word} {i : Instr} {s t : State}
    (hd : decodeFields true size off d = .instr i) (h : exec i s = .next t) : t.resp = .writeDone := by
  obtain ⟨rfl, -, -, hwritable⟩ := (legal_iff _ _ _).mp (legal_of_decodeFields hd)
  rcases hwritable rfl with rfl | rfl | rfl
  · obtain rfl : decodeCommand d = i := Decoded.instr.inj hd
    obtain ⟨⟨op, clr, startBit⟩, hf⟩ := decodeCommand_ctrlFields d
    rw [exec_ctrlFields hf] at h
    obtain rfl := Host.Outcome.next.inj h
    rfl
  · obtain rfl : Instr.wrOpa d = i := Decoded.instr.inj hd
    obtain rfl := Host.Outcome.next.inj h
    rfl
  · obtain rfl : Instr.wrOpb d = i := Decoded.instr.inj hd
    obtain rfl := Host.Outcome.next.inj h
    rfl

section Request

variable {p : PinsIn} (s : State) (hreq : p.req = true)

include hreq

/-- A presented legal transaction is run in its cycle (20_memory.md R51). -/
theorem afterTransaction_of_legal (hlegal : legal p.we p.size p.addr = true) :
    ∃ i, decodeFields p.we p.size p.addr p.wdata = .instr i ∧ exec i s = .next (afterTransaction p s) := by
  obtain ⟨i, hi⟩ := decodeFields_of_legal hlegal p.wdata
  rcases afterTransaction_cases p s with ⟨h, -⟩ | ⟨-, j, hj, hexec⟩ | ⟨-, c, hc, -⟩
  · rw [hreq] at h
    cases h
  · exact ⟨j, (decode_packT _ _ _ _).symm.trans hj, hexec⟩
  · rw [PinsIn.word, decode_packT, hi] at hc
    cases hc

/-- A presented transaction that is not legal changes nothing but the answer (60_exceptions.md R160). -/
theorem afterTransaction_of_not_legal (hlegal : legal p.we p.size p.addr = false) :
    afterTransaction p s = s.withResp .busError := by
  rcases afterTransaction_cases p s with ⟨h, -⟩ | ⟨-, j, hj, -⟩ | ⟨-, c, -, h⟩
  · rw [hreq] at h
    cases h
  · rw [PinsIn.word, decode_packT, decodeFields_of_not_legal hlegal] at hj
    cases hj
  · exact h

/-- A presented transaction that is legal is answered with `err = 0`, and any other with `err = 1`. -/
theorem afterTransaction_resp_err : (afterTransaction p s).resp.err = !legal p.we p.size p.addr := by
  cases hlegal : legal p.we p.size p.addr with
  | true =>
    obtain ⟨i, -, hexec⟩ := afterTransaction_of_legal s hreq hlegal
    exact exec_resp_err hexec
  | false =>
    rw [afterTransaction_of_not_legal s hreq hlegal]
    rfl

/-- A presented transaction has read data exactly if it is a legal read: the register's word (20_memory.md R58). -/
theorem afterTransaction_rdata_iff (w : Word) : (afterTransaction p s).resp.rdata = some w ↔
    p.we = false ∧ legal p.we p.size p.addr = true ∧ ∃ r : Reg, r.offset = p.addr ∧ w = readReg s r := by
  cases hlegal : legal p.we p.size p.addr with
  | false =>
    rw [afterTransaction_of_not_legal s hreq hlegal]
    simp [Response.rdata]
  | true =>
    obtain ⟨i, hi, hexec⟩ := afterTransaction_of_legal s hreq hlegal
    cases hwe : p.we with
    | true =>
      rw [hwe] at hi
      rw [exec_resp_of_decoded_write hi hexec]
      simp [Response.rdata]
    | false =>
      rw [hwe] at hi
      obtain ⟨r, hr, rfl⟩ := readOf_of_decodeFields hi
      rw [exec_readOf] at hexec
      rw [← Host.Outcome.next.inj hexec]
      constructor
      · exact fun h => ⟨rfl, rfl, r, hr, (Option.some.inj h).symm⟩
      · rintro ⟨-, -, r', hr', rfl⟩
        rw [Reg.offset_injective (hr'.trans hr.symm)]
        rfl

end Request

/-- Bit 1 of STATUS is DONE (10_state.md R24). -/
theorem statusWord_getLsbD_one (s : State) : (statusWord s).getLsbD 1 = s.done := by
  simp only [statusWord, BitVec.getLsbD_append, BitVec.getLsbD_ofBool]
  simp

/-- Settles O55: the answer in a cycle is that of the transaction presented in it. -/
theorem portsAnswerInTheirCycle : Obligations.PortsAnswerInTheirCycle := by
  unfold Obligations.PortsAnswerInTheirCycle
  intro p s isLegal
  refine ⟨(statusWord_getLsbD_zero s).symm, (statusWord_getLsbD_one s).symm, fun hreq => ?_, fun hreq hrst => ?_,
    fun hreq hrst => ?_⟩
  · rw [outputs, answer_of_no_request hreq]
    exact ⟨rfl, rfl⟩
  · rw [outputs, answer, if_pos hreq, if_pos hrst]
    exact ⟨rfl, rfl⟩
  · rw [outputs, answer_of_request hreq hrst]
    refine ⟨afterTransaction_resp_err s hreq, afterTransaction_rdata_iff s hreq, fun hlegal => ?_,
      afterTransaction_of_not_legal s hreq⟩
    obtain ⟨i, hi, hexec⟩ := afterTransaction_of_legal s hreq hlegal
    exact ⟨i, (decode_packT _ _ _ _).trans hi, hexec⟩

/-- What a CTRL write does, it does under any script. -/
theorem ctrlWrite_withInputs (op : BitVec 3) (clr startBit : Bool) (s : State) (l : List Event) :
    ctrlWrite op clr startBit (s.withInputs l) = (ctrlWrite op clr startBit s).withInputs l := by
  have hclr : applyClr clr ((s.withInputs l).withOp op) = (applyClr clr (s.withOp op)).withInputs l := by
    cases clr <;> rfl
  cases startBit with
  | false => exact hclr
  | true =>
    change start op _ = (start op _).withInputs l
    rw [hclr]
    unfold start
    simp only [State.withInputs_fsm]
    cases (applyClr clr (s.withOp op)).fsm with
    | run => rfl
    | idle => cases commandOf op <;> rfl

/-- No instruction sees the script. -/
theorem exec_withInputs {i : Instr} {s t : State} (h : exec i s = .next t) (l : List Event) :
    exec i (s.withInputs l) = .next (t.withInputs l) := by
  cases hf : i.ctrlFields with
  | some f =>
    obtain ⟨op, clr, startBit⟩ := f
    rw [exec_ctrlFields hf] at h ⊢
    rw [← Host.Outcome.next.inj h, ctrlWrite_withInputs]
    rfl
  | none =>
    rcases exec_of_not_ctrl hf s with ⟨d, rfl, he⟩ | ⟨d, rfl, he⟩ | ⟨r, rfl, he⟩
    · rw [← Host.Outcome.next.inj (he.symm.trans h)]
      rfl
    · rw [← Host.Outcome.next.inj (he.symm.trans h)]
      rfl
    · rw [exec_readOf] at h ⊢
      rw [← Host.Outcome.next.inj h]
      cases r <;> rfl

theorem storeInverse_withInputs (s : State) (l : List Event) :
    storeInverse (s.withInputs l) = (storeInverse s).withInputs l := by
  unfold storeInverse
  rw [apply_ite (State.withInputs · l), apply_ite (State.withInputs · l)]
  rfl

/-- No completion sees the script. -/
theorem complete_withInputs (s : State) (l : List Event) : complete (s.withInputs l) = (complete s).withInputs l := by
  cases hop : s.wk.op with
  | gcd =>
    rw [complete_of_gcd hop, complete_of_gcd (s := s.withInputs l) hop]
    rfl
  | egcd =>
    rw [complete_of_egcd hop, complete_of_egcd (s := s.withInputs l) hop]
    rfl
  | modinv =>
    have hstore : storeInverse (storeTriple (s.withInputs l)) = (storeInverse (storeTriple s)).withInputs l :=
      storeInverse_withInputs (storeTriple s) l
    rw [complete_of_modinv hop, complete_of_modinv (s := s.withInputs l) hop, hstore]
    rfl

/-- No engine step sees the script. -/
theorem engineStep_withInputs (s : State) (l : List Event) :
    engineStep (s.withInputs l) = (engineStep s).withInputs l := by
  rcases engineStep_cases s with ⟨hidle, h⟩ | ⟨hrun, h1, h⟩ | ⟨hrun, h1, h⟩ <;> rw [h]
  · exact engineStep_idle (s := s.withInputs l) hidle
  · exact engineStep_iterate (s := s.withInputs l) hrun h1
  · rw [← complete_withInputs]
    exact engineStep_complete (s := s.withInputs l) hrun h1

/-- The step of the access that the ports present: that of the cycle's transaction, or the fault of a bus error. -/
theorem step_of_pins {p : PinsIn} {s : State} {rest : List Event} (hreq : p.req = true)
    (hin : s.inputs = .host (p.access s.params.base) :: rest) :
    step s = .next ((afterTransaction p s).withInputs rest) ∨
    (legal p.we p.size p.addr = false ∧
      ∃ c, step s = .fault (.busError p.addr c ((afterTransaction p s).withInputs rest))) := by
  have hoff : windowOffset s.params (p.access s.params.base).addr = some p.addr := windowOffset_add s.params p.addr
  cases hlegal : legal p.we p.size p.addr with
  | true =>
    obtain ⟨i, hi, hexec⟩ := afterTransaction_of_legal s hreq hlegal
    exact .inl ((step_host_of_instr hin hoff hi).trans (exec_withInputs hexec rest))
  | false =>
    rw [afterTransaction_of_not_legal s hreq hlegal]
    rcases step_host_of_not_legal hin hoff hlegal with h | h
    · exact .inl h
    · exact .inr ⟨rfl, h⟩

/-- A step that faults ends the run. -/
theorem run_succ_of_faulting_step {M : Host.Core} {s : M.State} {f : M.Fault} (h : M.step s = .fault f) (n : Nat) :
    M.run (n + 1) s = .fault f := by
  rw [Host.Core.run, h]

theorem run_succ_of_fault {s : State} {f : Fault} (h : step s = .fault f) (n : Nat) :
    Host.Core.run core (n + 1) s = .fault f :=
  run_succ_of_faulting_step (M := core) h n

/-- The engine's step at the head of the script. -/
theorem step_engine {s : State} {rest : List Event} (hin : s.inputs = .engine :: rest) :
    step s = .next (engineStep (s.withInputs rest)) := by
  rw [step_of_engineMoves (.inr ⟨rest, hin⟩), hin, List.tail_cons]

/-- A cycle that begins in IDLE, run. -/
theorem run_cycle_of_idle {p : PinsIn} {s : State} {rest : List Event} (hrst : p.rst = false) (hidle : s.fsm = .idle)
    (hin : s.inputs = cycle p s ++ rest) :
    Host.Core.run core (cycle p s).length s = .next ((afterTransaction p s).withInputs rest) ∨
    (p.req = true ∧ legal p.we p.size p.addr = false ∧ ∃ c, Host.Core.run core (cycle p s).length s =
      .fault (.busError p.addr c ((afterTransaction p s).withInputs rest))) := by
  rw [cycle_of_idle hrst hidle] at hin ⊢
  cases hreq : p.req with
  | false =>
    rw [hreq] at hin
    have hsame : afterTransaction p s = s := by simp [afterTransaction, hreq]
    have hrest : s.withInputs rest = s := by rw [← State.withInputs_self s, hin]; rfl
    rw [hsame, hrest]
    exact .inl rfl
  | true =>
    rw [hreq] at hin
    rcases step_of_pins hreq hin with h | ⟨hlegal, c, h⟩
    · exact .inl (run_succ h 0)
    · exact .inr ⟨rfl, hlegal, c, run_succ_of_fault h 0⟩

/-- A cycle that begins in RUN, run: the engine's step comes after the transaction, or does not come after its fault
(70_reset_and_hazards.md R189). -/
theorem run_cycle_of_run {p : PinsIn} {s : State} {rest : List Event} (hrst : p.rst = false) (hrun : s.fsm = .run)
    (hin : s.inputs = cycle p s ++ rest) :
    Host.Core.run core (cycle p s).length s = .next ((engineStep (afterTransaction p s)).withInputs rest) ∨
    (p.req = true ∧ legal p.we p.size p.addr = false ∧ ∃ c, Host.Core.run core (cycle p s).length s =
      .fault (.busError p.addr c ((afterTransaction p s).withInputs (.engine :: rest)))) := by
  rw [cycle_of_run hrst hrun] at hin ⊢
  cases hreq : p.req with
  | false =>
    rw [hreq] at hin
    have hsame : afterTransaction p s = s := by simp [afterTransaction, hreq]
    rw [hsame, ← engineStep_withInputs]
    exact .inl (run_succ (step_engine hin) 0)
  | true =>
    rw [hreq] at hin
    rcases step_of_pins hreq hin with h | ⟨hlegal, c, h⟩
    · refine .inl ((run_succ h 1).trans ?_)
      rw [← engineStep_withInputs]
      exact run_succ (step_engine (s := (afterTransaction p s).withInputs (.engine :: rest)) rfl) 0
    · exact .inr ⟨rfl, hlegal, c, run_succ_of_fault h 1⟩

/-- Settles O56: a reset is one event; else the cycle is the transaction, and in RUN the engine's step after it. -/
theorem clockCycleIsARunOfEvents : Obligations.ClockCycleIsARunOfEvents := by
  unfold Obligations.ClockCycleIsARunOfEvents
  intro s p rest hin after
  cases hrst : p.rst with
  | true =>
    have hcycle : cycle p s = [.reset p.req] := by simp [cycle, hrst]
    have hafter : after = (applyReset p.req s).withInputs rest := by rw [← clockEdge_of_reset hrst s]; rfl
    rw [hcycle] at hin
    rw [hcycle, hafter]
    exact .inl (run_succ (step_of_reset hin) 0)
  | false =>
    cases hfsm : s.fsm with
    | idle =>
      have hafter : after = (afterTransaction p s).withInputs rest := by rw [← clockEdge_of_idle hrst hfsm]; rfl
      rw [hafter]
      rcases run_cycle_of_idle hrst hfsm hin with h | ⟨hreq, hlegal, c, h⟩
      · exact .inl h
      · exact .inr ⟨rfl, hreq, hlegal, c, _, h, rfl⟩
    | run =>
      have hafter : after = (engineStep (afterTransaction p s)).withInputs rest := by
        rw [← clockEdge_of_run hrst hfsm]; rfl
      rw [hafter]
      rcases run_cycle_of_run hrst hfsm hin with h | ⟨hreq, hlegal, c, h⟩
      · exact .inl h
      · refine .inr ⟨rfl, hreq, hlegal, c, _, h, ?_⟩
        rw [if_pos rfl, engineStep_withInputs]
        rfl

/-- In RUN no instruction writes the FSM state or the working registers (40_engine.md R92, 70_reset_and_hazards.md
R187). -/
theorem exec_of_run {i : Instr} {s t : State} (hrun : s.fsm = .run) (h : exec i s = .next t) :
    t.fsm = .run ∧ t.wk = s.wk := by
  rcases exec_cases h with ⟨a, b, r, rfl, -⟩ | ⟨op, clr, -, rfl⟩ | ⟨op, clr, -, -, rfl⟩ |
    ⟨op, clr, c, -, hidle, -⟩ | ⟨op, clr, -, hidle, -⟩
  · exact ⟨hrun, rfl⟩
  · rw [applyClr_eq]
    exact ⟨hrun, rfl⟩
  · rw [applyClr_eq]
    exact ⟨hrun, rfl⟩
  · exact absurd (hrun.symm.trans hidle) (by decide)
  · exact absurd (hrun.symm.trans hidle) (by decide)

theorem afterTransaction_of_run {s : State} (hrun : s.fsm = .run) (p : PinsIn) :
    (afterTransaction p s).fsm = .run ∧ (afterTransaction p s).wk = s.wk := by
  rcases afterTransaction_cases p s with ⟨-, h⟩ | ⟨-, i, -, hexec⟩ | ⟨-, c, -, h⟩
  · rw [h]
    exact ⟨hrun, rfl⟩
  · exact exec_of_run hrun hexec
  · rw [h]
    exact ⟨hrun, rfl⟩

/-- At the edge of a completion the transaction of the cycle comes first (70_reset_and_hazards.md R189). -/
theorem clockEdge_of_completion {s : State} {p : PinsIn} (hrst : p.rst = false) (hrun : s.fsm = .run)
    (h1 : s.wk.r1 = 0) : clockEdge p s = complete (afterTransaction p s) := by
  obtain ⟨hrun', hwk⟩ := afterTransaction_of_run hrun p
  rw [clockEdge_of_run hrst hrun, engineStep_complete hrun' (hwk ▸ h1)]

/-- A legal access in the cycle of a completion, run: it is followed by the completion. -/
theorem run_cycle_of_completion {s : State} {p : PinsIn} {rest : List Event} (hrst : p.rst = false)
    (hreq : p.req = true) (hlegal : legal p.we p.size p.addr = true) (hrun : s.fsm = .run) (h1 : s.wk.r1 = 0)
    (hin : s.inputs = cycle p s ++ rest) :
    Host.Core.run core 2 s = .next ((complete (afterTransaction p s)).withInputs rest) := by
  have hlength : (cycle p s).length = 2 := by rw [cycle_of_run hrst hrun, hreq]; rfl
  rcases run_cycle_of_run hrst hrun hin with h | ⟨-, hnot, -⟩
  · rwa [hlength, ← clockEdge_of_run hrst hrun, clockEdge_of_completion hrst hrun h1] at h
  · rw [hlegal] at hnot
    cases hnot

/-- Settles O48: the completion finds the transaction done: the answer of a STATUS read, with BUSY, is there, and DONE
is set after any CLR. -/
theorem transactionPrecedesCompletionInACycle : Obligations.TransactionPrecedesCompletionInACycle := by
  unfold Obligations.TransactionPrecedesCompletionInACycle
  intro s rest p hrun h1 hrst hreq hsize hin
  rw [clockEdge_of_completion hrst hrun h1]
  refine ⟨fun hwe haddr => ?_, fun hwe haddr _ => ?_⟩
  · have hlegal : legal p.we p.size p.addr = true := by
      rw [hwe, hsize, haddr]
      decide
    have hbusy : (statusWord s).getLsbD 0 = true := by
      rw [statusWord_getLsbD_zero, State.busy, hrun]
      rfl
    have hresp : (afterTransaction p s).resp = .readData (statusWord s) := by
      obtain ⟨i, hi, hexec⟩ := afterTransaction_of_legal s hreq hlegal
      rw [hwe, haddr, hsize] at hi
      obtain rfl : Instr.rdStatus = i := Decoded.instr.inj hi
      rw [← Host.Outcome.next.inj hexec]
      rfl
    refine ⟨⟨_, ?_, hbusy⟩, rfl, _, _, run_cycle_of_completion hrst hreq hlegal hrun h1 hin, rfl, rfl, ?_, hbusy⟩
    · rw [outputs, answer_of_request hreq hrst, hresp]
      rfl
    · rw [State.withInputs_resp, complete_resp, hresp]
  · have hlegal : legal p.we p.size p.addr = true := by
      rw [hwe, hsize, haddr]
      decide
    exact ⟨rfl, rfl, _, run_cycle_of_completion hrst hreq hlegal hrun h1 hin, rfl, rfl, rfl⟩

/-- A transaction in RUN goes on with the command (40_engine.md R92). -/
theorem afterTransaction_goesOnFrom {s : State} (hrun : s.fsm = .run) (hclear : s.FlagsClear) (p : PinsIn) :
    (afterTransaction p s).GoesOnFrom s := by
  rcases afterTransaction_cases p s with ⟨-, h⟩ | ⟨-, i, -, hexec⟩ | ⟨-, c, -, h⟩
  · rw [h]
    exact ⟨hrun, rfl, hclear.1, rfl⟩
  · exact exec_goesOnFrom hrun hclear hexec
  · rw [h]
    exact ⟨hrun, rfl, hclear.1, rfl⟩

/-- What goes on with a legal command is legal. -/
theorem State.GoesOnFrom.runFits {s t : State} (h : t.GoesOnFrom s) (hparams : t.params = s.params)
    (hfits : s.RunFits) : t.RunFits := by
  obtain ⟨-, hwk, hdone, hresults⟩ := h
  obtain ⟨-, hnoinv, herr, ha, hb, hreached⟩ := hfits
  have hnoinv' : t.noinv = s.noinv := congrArg Results.noinv hresults
  have herr' : t.err = s.err := congrArg Results.err hresults
  rw [State.RunFits, hparams, hwk]
  exact ⟨hdone, hnoinv'.trans hnoinv, herr'.trans herr, ha, hb, hreached⟩

/-- An iteration of a legal command is legal. -/
theorem State.RunFits.iterate {s : State} (h : s.RunFits) (h1 : s.wk.r1 ≠ 0) : (s.withWk (iterate s.wk)).RunFits := by
  obtain ⟨hdone, hnoinv, herr, ha, hb, n, hreached⟩ := h
  exact ⟨hdone, hnoinv, herr, ha, hb, n + 1, hreached.iterate h1⟩

/-- A running command makes one engine step in each clock cycle without reset: it runs for the divisions to come, and
completes in the cycle after them, whatever is presented (70_reset_and_hazards.md R188). -/
theorem clockEdges_of_run {s : State} {ps : List PinsIn} (hwf : s.params.wf = true) (hrun : s.fsm = .run)
    (hfits : s.RunFits) (hps : ∀ q ∈ ps, q.rst = false) :
    (ps.length ≤ divisions s.wk.r0 s.wk.r1 → (clockEdges ps s).fsm = .run) ∧
    (ps.length = divisions s.wk.r0 s.wk.r1 + 1 →
      (clockEdges ps s).fsm = .idle ∧ (clockEdges ps s).done = true ∧
      (clockEdges ps s).results = commandResults s.params.W s.wk.op s.wk.a s.wk.b) := by
  induction ps generalizing s with
  | nil => exact ⟨fun _ => hrun, fun hlength => by simp at hlength⟩
  | cons q qs ih =>
    obtain ⟨hq, hqs⟩ := List.forall_mem_cons.mp hps
    have hgoes := afterTransaction_goesOnFrom hrun hfits.flagsClear q
    have hparams := (afterTransaction_params_inputs q s).1
    have hfits' := hgoes.runFits hparams hfits
    obtain ⟨hrun', hwk, -, -⟩ := hgoes
    rw [clockEdges_cons, clockEdge_of_run hq hrun, List.length_cons, ← hparams, ← hwk]
    rw [← hparams] at hwf
    by_cases h1 : (afterTransaction q s).wk.r1 = 0
    · rw [engineStep_complete hrun' h1, h1, divisions_zero]
      refine ⟨fun hlength => absurd hlength (Nat.not_succ_le_zero _), fun hlength => ?_⟩
      obtain rfl : qs = [] := List.eq_nil_of_length_eq_zero (Nat.succ.inj hlength)
      exact ⟨rfl, rfl, complete_results_of_runFits hwf hfits' h1⟩
    · rw [engineStep_iterate hrun' h1, divisions_iterate h1, Nat.add_le_add_iff_right, Nat.add_right_cancel_iff]
      exact ih (s := (afterTransaction q s).withWk (iterate (afterTransaction q s).wk)) hwf hrun' (hfits'.iterate h1)
        hqs

/-- The clock edge of an instruction presented in IDLE is the instruction. -/
theorem exec_clockEdge_of_idle {s : State} {p : PinsIn} {i : Instr} (hidle : s.fsm = .idle) (hrst : p.rst = false)
    (hreq : p.req = true) (hd : decode p.word = .instr i) : exec i s = .next (clockEdge p s) := by
  rw [clockEdge_of_idle hrst hidle]
  rcases afterTransaction_cases p s with ⟨h, -⟩ | ⟨-, j, hj, hexec⟩ | ⟨-, c, hc, -⟩
  · rw [hreq] at h
    cases h
  · rw [hd] at hj
    obtain rfl := Decoded.instr.inj hj
    exact hexec
  · rw [hd] at hc
    cases hc

/-- Settles O57: the edge of the START is its acceptance, after which the command runs for its divisions and completes
in the next cycle; the edge of an illegal one is its rejection. -/
theorem commandTakesItersPlusOneClocks : Obligations.CommandTakesItersPlusOneClocks := by
  unfold Obligations.CommandTakesItersPlusOneClocks
  intro s p i op clr hinv hidle hrst hreq hd hi
  have hexec := exec_clockEdge_of_idle hidle hrst hreq hd
  constructor
  · intro c hc a b n
    obtain ⟨hlow, hhigh, -⟩ := (Params.wf_iff s.params).mp hinv.1
    have hb : InRange s.params.W b := sint_inRange_of_wf hinv.1 s.opb
    rw [exec_of_starts hi hc hidle] at hexec
    have hstarted := Host.Outcome.next.inj hexec
    have hfits := (hinv.startedWith op clr c).runFits rfl
    refine ⟨divisions_le_of_inRange (by omega) hb a, fun ps hps => ?_⟩
    rw [clockEdges_cons, ← hstarted]
    obtain ⟨hruns, hends⟩ := clockEdges_of_run (s := s.startedWith op clr c) hinv.1 rfl hfits hps
    refine ⟨hruns, fun hlength => ?_⟩
    obtain ⟨hidle', hdone, hresults⟩ := hends hlength
    have hiters := congrArg Results.iters hresults
    rw [commandResults_iters] at hiters
    refine ⟨hidle', hdone, ?_, hresults⟩
    exact (congrArg BitVec.toNat hiters).trans (hb.toNat_u32_divisions hlow hhigh a)
  · intro hc
    rw [exec_of_illegal_starts hi hc hidle] at hexec
    rw [← Host.Outcome.next.inj hexec]
    exact ⟨hidle, rfl, rfl⟩

end Sys2Proof.Machine
end

section
/-! The host's side (30_encoding.md R78, 00_scope.md R4): the pseudo-instructions, and the calls of the source's
functions. -/

namespace Sys2Proof.Machine

/-- Settles O53: an expansion has the fields of its word, relative to BASE. -/
theorem pseudoInstructionsExpand : Obligations.PseudoInstructionsExpand := by
  unfold Obligations.PseudoInstructionsExpand
  intro base
  exact ⟨rfl, rfl, rfl, rfl, rfl, rfl, rfl, rfl⟩

/-- The operands of the block are the W-bit values (00_scope.md R4, R5). -/
theorem isOperand_iff (p : Params) (i : Int) : Params.isOperand p i = true ↔ InRange p.W i := by
  rw [Params.isOperand, Bool.and_eq_true, decide_eq_true_eq, decide_eq_true_eq, Params.intMax, Int.le_sub_one_iff]
  rfl

theorem isOperand_eq_false_iff (p : Params) (i : Int) : Params.isOperand p i = false ↔ ¬ InRange p.W i := by
  rw [← isOperand_iff, Bool.not_eq_true]

/-- The OP of a command (30_encoding.md R72). -/
def Command.opcode : Command → BitVec 3
  | .gcd => 0#3
  | .egcd => 1#3
  | .modinv => 2#3

theorem commandOf_opcode (c : Command) : commandOf c.opcode = some c := by
  cases c <;> rfl

/-- The pseudo-instruction of a command writes the operands, then the command word (30_encoding.md R78). -/
theorem expand_stmt (c : Command) (base : Nat) (a b : Int) :
    (c.stmt a b).expand base =
      [writeReg base .opa a, writeReg base .opb b, writeReg base .ctrl (c.opcode.toNat * 256 + 1)] := by
  cases c <;> rfl

/-- The word that starts a command decodes to its START without CLR. -/
theorem decodeFields_command (c : Command) :
    decodeFields true 2#2 0x00#6 (BitVec.ofInt 32 (c.opcode.toNat * 256 + 1)) = .instr (startOf c.opcode false) := by
  cases c <;> decide

/-- A register write of the host, at the head of the script, is run. -/
theorem step_writeReg {s : State} {r : Reg} {v : Int} {rest : List Event} {i : Instr}
    (hin : s.inputs = writeReg s.params.base r v :: rest)
    (hd : decodeFields true 2#2 r.offset (BitVec.ofInt 32 v) = .instr i) :
    step s = exec i (s.withInputs rest) :=
  step_host_of_instr hin (windowOffset_add s.params r.offset) hd

/-- The block with the operands of a call stored, and what remains of the script. -/
def State.withOperands (s : State) (a b : Int) (rest : List Event) : State :=
  { s with
    opa := lowBits s.params.W (BitVec.ofInt 32 a), opb := lowBits s.params.W (BitVec.ofInt 32 b)
    inputs := rest, resp := .writeDone }

/-- The script of a call (30_encoding.md R78). -/
def State.called (s : State) (c : Command) (a b : Int) : State :=
  s.withInputs (assemble s.params.base [c.stmt a b, .wait] ++ s.inputs)

/-- The first two transactions of a call write the operands. -/
theorem run_called (s : State) (c : Command) (a b : Int) (n : Nat) :
    Host.Core.run core (n + 2) (s.called c a b) = Host.Core.run core n
      (s.withOperands a b (writeReg s.params.base .ctrl (c.opcode.toNat * 256 + 1) :: .wait :: s.inputs)) := by
  have hscript : (s.called c a b).inputs = writeReg s.params.base .opa a :: writeReg s.params.base .opb b ::
      writeReg s.params.base .ctrl (c.opcode.toNat * 256 + 1) :: .wait :: s.inputs := by
    simp only [State.called, assemble, List.flatMap_cons, expand_stmt]
    rfl
  rw [run_succ ((step_writeReg (s := s.called c a b) hscript rfl).trans (exec_wrOpa _ _)),
    run_succ ((step_writeReg rfl rfl).trans (exec_wrOpb _ _))]
  rfl

/-- A stored operand is latched as the integer it was made from, if that is a W-bit value (00_scope.md R4, R6). -/
theorem InRange.sint_lowBits_ofInt {W : Nat} {i : Int} (h : InRange W i) (hpos : 0 < W) (hhigh : W ≤ 32) :
    sint W (lowBits W (BitVec.ofInt 32 i)) = i := by
  rw [sint_lowBits hhigh, h.sint_ofInt hpos hhigh]

/-- Settles O52: the third transaction is the START, which latches the operands that the first two stored. -/
theorem sourceCallRefusesWideIntegers : Obligations.SourceCallRefusesWideIntegers := by
  unfold Obligations.SourceCallRefusesWideIntegers
  intro s c a b hwf
  obtain ⟨hlow, hhigh, -⟩ := (Params.wf_iff s.params).mp hwf
  have hrefused (i : Int) (hi : ¬ InRange s.params.W i) := (isOperand_eq_false_iff s.params i).mpr hi
  have hallowed (i : Int) (hi : InRange s.params.W i) := mt (isOperand_eq_false_iff s.params i).mp (not_not.mpr hi)
  rw [sourceCall]
  refine ⟨fun ha => if_pos (hrefused a ha), fun ha hb => ?_, fun ha hb => ?_⟩
  · rw [if_neg (hallowed a ha), if_pos (hrefused b hb)]
  · rw [if_neg (hallowed a ha), if_neg (hallowed b hb)]
    have hstart := step_writeReg (rest := .wait :: s.inputs)
      (s := s.withOperands a b (writeReg s.params.base .ctrl (c.opcode.toNat * 256 + 1) :: .wait :: s.inputs)) rfl
      (decodeFields_command c)
    obtain ⟨u, hu⟩ := exec_next (startOf c.opcode false) (s.withOperands a b (.wait :: s.inputs))
    refine ⟨s.called c a b, u, rfl, ?_, fun hidle => ?_⟩
    · rw [run_called, run_succ (hstart.trans hu)]
      rfl
    · rw [exec_of_starts (s := s.withOperands a b (.wait :: s.inputs)) (startOf_starts _ _) (commandOf_opcode c)
        hidle] at hu
      rw [← Host.Outcome.next.inj hu]
      exact ⟨rfl, rfl, ha.sint_lowBits_ofInt (by omega) hhigh, hb.sint_lowBits_ofInt (by omega) hhigh, rfl⟩

end Sys2Proof.Machine
end
